-- ==== Sys2Proof/Word.lean ====
section
/-! DEFINITION. The word types of the BBM: every host-visible value is 8 bits, a slave address is 7 bits,
a register offset is 3 bits (00_scope.md R8, 20_memory.md R51). -/

namespace Sys2Proof

/-- An 8-bit host-visible value (R8). -/
abbrev Byte := BitVec 8

/-- A 7-bit slave address (R8, R61). -/
abbrev SlaveAddr := BitVec 7

/-- A 3-bit offset in the host register space (R51). -/
abbrev Offset := BitVec 3

/-- A 16-bit internal word: a compound primitive (R70, R75). -/
abbrev Word16 := BitVec 16

end Sys2Proof
end

