-- ==== Sys2Proof/Config.lean ====
section
/-! DEFINITION. The parameters of 00_scope.md R7, fixed at build time, and the free values the spec leaves open. -/

namespace Sys2Proof

/-- The parameters of R7. A model takes them as arguments; here they travel in `State.cfg`, which no step changes (log 1). -/
structure Config where
  /-- `N_GPIO`: pins in the platform GPIO bank. -/
  nGpio : Nat
  /-- `SCL_PIN`: the pin that carries SCL. -/
  sclPin : Nat
  /-- `SDA_PIN`: the pin that carries SDA. -/
  sdaPin : Nat
  /-- `DELAY_CYCLES`: length of one DELAY in `clk` cycles (R11). -/
  delayCycles : Nat
  /-- `RB_NAK_STOP`: whether RECEIVE_BYTE issues a STOP after an address NAK (R10). -/
  rbNakStop : Bool
  deriving DecidableEq, Repr

/-- The configuration of `State.reset`. `RB_NAK_STOP = 1` is the spec's default (R7, R10).
DESIGN CHOICE (log 1): the spec leaves the other four open; `DELAY_CYCLES = 2` is what 95_test_vectors.md section 0 uses. -/
def Config.initial : Config :=
  { nGpio := 2, sclPin := 0, sdaPin := 1, delayCycles := 2, rbNakStop := true }

/-- What `draw_sda()` answers at draw number `n` when the script of levels has none left:
a free input bit under no law (R106, I4; log 2). -/
opaque Config.freeSda : Nat → Bool

/-- Whether a stop condition appears on the wire when the reset that is event number `n` of a trace releases
two driven lines: R233 does not specify it (I6; log 13). -/
opaque Config.freeResetStop : Nat → Bool

end Sys2Proof
end

