-- ==== Sys2Proof/Syntax.lean ====
section
/-! DEFINITION. Syntax: the operations of the opcode table (30_encoding.md R70 to R75), their encoded words by
format, and the statements of a host program (R82). -/

namespace Sys2Proof

/-- The seventeen rows of the opcode table: five commands (R72), six micro-operations (R74) and six compound
primitives (R75), in the table's order. -/
inductive Instr
  | init
  | sendByte
  | receiveByte
  | sendByteData
  | receiveByteData
  | relScl
  | drvScl
  | relSda
  | drvSda
  | delay
  | sampleSda
  | start
  | stop
  /-- WRITE_BIT v. -/
  | writeBit (v : Bool)
  | readBit
  /-- WRITE_BYTE x, start_flag, stop_flag. -/
  | writeByte (x : Byte) (startFlag stopFlag : Bool)
  /-- READ_BYTE send_ack_flag, stop_flag. -/
  | readByte (sendAckFlag stopFlag : Bool)
  deriving DecidableEq, Repr

/-- The five host commands (R17, R72). -/
inductive Cmd
  | init | sendByte | receiveByte | sendByteData | receiveByteData
  deriving DecidableEq, Repr

/-- The six micro-operations (R17, R74). -/
inductive Uop
  | relScl | drvScl | relSda | drvSda | delay | sampleSda
  deriving DecidableEq, Repr

/-- A command as an instruction. -/
def Cmd.instr : Cmd → Instr
  | .init => .init
  | .sendByte => .sendByte
  | .receiveByte => .receiveByte
  | .sendByteData => .sendByteData
  | .receiveByteData => .receiveByteData

/-- A micro-operation as an instruction. -/
def Uop.instr : Uop → Instr
  | .relScl => .relScl
  | .drvScl => .drvScl
  | .relSda => .relSda
  | .drvSda => .drvSda
  | .delay => .delay
  | .sampleSda => .sampleSda

/-- An encoded word with the format it has from where it comes (R70: the three forms are never mixed in one stream). -/
inductive EncWord
  | cmd (v : Byte)
  | uop (w : Byte)
  | prim (w : Word16)
  deriving DecidableEq, Repr

/-- One host access of one cycle (R51, R57), or none. -/
inductive Access
  | none
  /-- `RegRead(off)`. -/
  | rd (off : Offset)
  /-- `RegWrite(off, v)`. -/
  | wr (off : Offset) (v : Byte)
  deriving DecidableEq, Repr

/-- One entry of the outside world's script, which `State.inputs` holds (log 10). -/
inductive Input
  /-- One `clk` cycle with `rst = 0` and this host access: the statements `wr` and `rd` of R82, or no access. -/
  | cycle (a : Access)
  /-- The statement `wait` of R82: read STATUS every cycle until bit 0 of the value read is 0 (log 12). -/
  | wait
  /-- One `clk` cycle with `rst = 1`, with whatever access the host makes in it (R230). -/
  | rst (a : Access)
  /-- One word performed to its end in one step: a command byte written to CMD and waited for, or an internal
  UOP or PRIM word run directly, which only a model can do (R70, R125; log 3, log 4). -/
  | word (w : EncWord)
  deriving DecidableEq, Repr

end Sys2Proof
end

