-- ==== Sys2Proof/WellFormed.lean ====
section
/-! DEFINITION. The checks: which configuration is a BBM (R7, R9), and which encoded words keep the "must be"
rules of the formats (R72, R74, R75). Every term of `Instr` is well formed: its operands are typed by their widths. -/

namespace Sys2Proof

/-- A configuration that is a BBM (R7): at least two pins, both pins in the bank, `SCL_PIN ≠ SDA_PIN` (R9),
`DELAY_CYCLES ≥ 1` (R7, R240). -/
def Config.wellFormed (c : Config) : Bool :=
  decide (2 ≤ c.nGpio) && decide (c.sclPin < c.nGpio) && decide (c.sdaPin < c.nGpio) &&
    decide (c.sclPin ≠ c.sdaPin) && decide (1 ≤ c.delayCycles)

/-- A command byte that R72 gives a meaning: 0x01 to 0x05. -/
def cmdWordOk (v : Byte) : Bool := decide (1 ≤ v.toNat) && decide (v.toNat ≤ 5)

/-- A UOP word of the form `0001 0uuu` with `uuu` at most 5 (R74). -/
def uopWordOk (w : Byte) : Bool := decide (w.toNat / 8 = 2) && decide (w.toNat % 8 ≤ 5)

/-- Bits 11:10 of a PRIM word must be 00 (R75). -/
def primReservedOk (w : Word16) : Bool := decide (w.extractLsb' 10 2 = 0)

/-- The kind of a PRIM word, bits 15:12 (R75). -/
def primKind (w : Word16) : Nat := (w.extractLsb' 12 4).toNat

/-- Bit 9 (`f`) is a flag of WRITE_BYTE and READ_BYTE and must be 0 otherwise (R75). -/
def primFOk (w : Word16) : Bool := decide (5 ≤ primKind w) || !w.getLsbD 9

/-- Bit 8 (`g`) is a flag of WRITE_BYTE and READ_BYTE and the bit of WRITE_BIT, and must be 0 otherwise (R75). -/
def primGOk (w : Word16) : Bool := decide (5 ≤ primKind w) || decide (primKind w = 3) || !w.getLsbD 8

/-- Bits 7:0 (`b`) are the byte of WRITE_BYTE and must be 0x00 otherwise (R75). -/
def primBOk (w : Word16) : Bool := decide (primKind w = 5) || decide (w.extractLsb' 0 8 = 0)

/-- A PRIM word that R75 gives a meaning. -/
def primWordOk (w : Word16) : Bool :=
  decide (1 ≤ primKind w) && decide (primKind w ≤ 6) && primReservedOk w && primFOk w && primGOk w && primBOk w

/-- The words that rules R72, R74 and R75 give a meaning. -/
def EncWord.wellFormed : EncWord → Bool
  | .cmd v => cmdWordOk v
  | .uop w => uopWordOk w
  | .prim w => primWordOk w

/-- Every instruction is well formed: each operand has exactly the width of its field (R71, R74, R75). -/
def Instr.wellFormed : Instr → Bool
  | .init | .sendByte | .receiveByte | .sendByteData | .receiveByteData => true
  | .relScl | .drvScl | .relSda | .drvSda | .delay | .sampleSda => true
  | .start | .stop | .writeBit _ | .readBit | .writeByte _ _ _ | .readByte _ _ => true

end Sys2Proof
end

