-- ==== Sys2Proof/Decode.lean ====
section
/-! DEFINITION. Decoders (30_encoding.md R72, R74, R75, R85), total on every word and rejecting by name, and the
encoder from the same tables. -/

namespace Sys2Proof

/-- What a decoder answers (R85): an instruction, `reserved` for a command byte, or `invalid` for an internal word. -/
inductive Decoded
  | ok (i : Instr)
  /-- R78: a reserved command code; a real outcome, ignored by the block. -/
  | reservedCmd (v : Byte)
  /-- R79: a UOP word the sequencer never generates. -/
  | invalidUop (w : Byte)
  /-- R79: a PRIM word the sequencer never generates. -/
  | invalidPrim (w : Word16)
  deriving DecidableEq, Repr

/-- The codes of R72, matched on all eight bits. -/
def Cmd.code : Cmd → Byte
  | .init => 0x01
  | .sendByte => 0x02
  | .receiveByte => 0x03
  | .sendByteData => 0x04
  | .receiveByteData => 0x05

/-- The command a CMD byte starts (R72); `none` for a reserved code (R78). -/
def Cmd.ofCode (v : Byte) : Option Cmd :=
  if v = 0x01 then some .init
  else if v = 0x02 then some .sendByte
  else if v = 0x03 then some .receiveByte
  else if v = 0x04 then some .sendByteData
  else if v = 0x05 then some .receiveByteData
  else none

/-- The codes of R74. -/
def Uop.code : Uop → Byte
  | .relScl => 0x10
  | .drvScl => 0x11
  | .relSda => 0x12
  | .drvSda => 0x13
  | .delay => 0x14
  | .sampleSda => 0x15

/-- The micro-operation of a UOP byte: bits 7:3 are `00010`, bits 2:0 select it (R74). -/
def Uop.ofCode (w : Byte) : Option Uop :=
  if w.extractLsb' 3 5 = 0b00010 then
    let u := w.extractLsb' 0 3
    if u = 0 then some .relScl
    else if u = 1 then some .drvScl
    else if u = 2 then some .relSda
    else if u = 3 then some .drvSda
    else if u = 4 then some .delay
    else if u = 5 then some .sampleSda
    else none
  else none

/-- The compound primitive of a PRIM word `kkkk 00 f g bbbbbbbb` (R75). -/
def primOfWord (w : Word16) : Option Instr :=
  let k := w.extractLsb' 12 4
  let f := w.getLsbD 9
  let g := w.getLsbD 8
  let b := w.extractLsb' 0 8
  if w.extractLsb' 10 2 ≠ 0 then none
  else if k = 1 then (if f || g || b ≠ 0 then none else some .start)
  else if k = 2 then (if f || g || b ≠ 0 then none else some .stop)
  else if k = 3 then (if f || b ≠ 0 then none else some (.writeBit g))
  else if k = 4 then (if f || g || b ≠ 0 then none else some .readBit)
  else if k = 5 then some (.writeByte b f g)
  else if k = 6 then (if b ≠ 0 then none else some (.readByte f g))
  else none

/-- The decoder of all three formats (R85). -/
def decode : EncWord → Decoded
  | .cmd v => match Cmd.ofCode v with
    | some c => .ok c.instr
    | none => .reservedCmd v
  | .uop w => match Uop.ofCode w with
    | some u => .ok u.instr
    | none => .invalidUop w
  | .prim w => match primOfWord w with
    | some i => .ok i
    | none => .invalidPrim w

/-- A PRIM word from its fields: kind, `f`, `g`, `b`, with bits 11:10 zero (R75). -/
def primWord (k : BitVec 4) (f g : Bool) (b : Byte) : Word16 :=
  k ++ (0#2 ++ (BitVec.ofBool f ++ (BitVec.ofBool g ++ b)))

/-- The encoder, from the tables of R72, R74 and R75. -/
def encode : Instr → EncWord
  | .init => .cmd Cmd.init.code
  | .sendByte => .cmd Cmd.sendByte.code
  | .receiveByte => .cmd Cmd.receiveByte.code
  | .sendByteData => .cmd Cmd.sendByteData.code
  | .receiveByteData => .cmd Cmd.receiveByteData.code
  | .relScl => .uop Uop.relScl.code
  | .drvScl => .uop Uop.drvScl.code
  | .relSda => .uop Uop.relSda.code
  | .drvSda => .uop Uop.drvSda.code
  | .delay => .uop Uop.delay.code
  | .sampleSda => .uop Uop.sampleSda.code
  | .start => .prim (primWord 1 false false 0)
  | .stop => .prim (primWord 2 false false 0)
  | .writeBit v => .prim (primWord 3 false v 0)
  | .readBit => .prim (primWord 4 false false 0)
  | .writeByte x f g => .prim (primWord 5 f g x)
  | .readByte f g => .prim (primWord 6 f g 0)

/-- The encoded word of a table word of `nbits` bits: the 16-bit rows are PRIM, an 8-bit row is UOP where its byte
is a UOP code and CMD otherwise (R70 gives the two 8-bit formats different origins, and their codes do not meet; log 15). -/
def tableWord (nbits w : Nat) : Option EncWord :=
  if nbits = 8 ∧ w < 256 then
    if uopWordOk (BitVec.ofNat 8 w) then some (.uop (BitVec.ofNat 8 w)) else some (.cmd (BitVec.ofNat 8 w))
  else if nbits = 16 ∧ w < 65536 then some (.prim (BitVec.ofNat 16 w))
  else none

/-- The instruction the decoder reads from a table word. -/
def decodeTableWord (nbits w : Nat) : Option Instr :=
  match tableWord nbits w with
  | some e => match decode e with
    | .ok i => some i
    | .reservedCmd _ | .invalidUop _ | .invalidPrim _ => none
  | none => none

/-- A host access as the 12-bit access word `w ooo dddddddd` of R82 (notation for test vectors, not hardware);
`none` is no access. -/
def Access.encode : Access → Option (BitVec 12)
  | .none => Option.none
  | .rd off => some (0#1 ++ (off ++ 0#8))
  | .wr off v => some (1#1 ++ (off ++ v))

/-- The access of an access word (R82): a read word has datum 0. -/
def Access.decode (w : BitVec 12) : Option Access :=
  if w.getLsbD 11 then some (.wr (w.extractLsb' 8 3) (w.extractLsb' 0 8))
  else if w.extractLsb' 0 8 = 0 then some (.rd (w.extractLsb' 8 3))
  else Option.none

end Sys2Proof
end

