-- ==== Sys2Proof/Machine/State.lean ====
section
/-! DEFINITION. The state: `Block`, exactly the record of 10_state.md R20, and beside it `World`, the parameters and the
other agents, which R39 says are not BBM state. -/

namespace Sys2Proof.Machine

open Sys2Proof

/-- The framing state (R23). -/
inductive Framing
  | idle | active
  deriving DecidableEq, Repr

/-- Events of the trace (R24): one per uop, and the markers of commands and resets. -/
inductive Event
  | relScl | drvScl | relSda | drvSda | delay
  /-- `Sample(b)`. -/
  | sample (b : Bool)
  | reset
  /-- `Cmd(op)`: a command was accepted (R160). -/
  | cmd (op : Byte)
  /-- `Done(r)`: a command finished; `r` is absent for INIT (R162). -/
  | done (r : Option Byte)
  deriving DecidableEq, Repr

/-- Where a byte primitive of a command takes its byte from: the latches (R26), the address byte in one of its two
directions (R76). -/
inductive ByteSrc
  | addrWrite | addrRead | reg | data
  deriving DecidableEq, Repr

/-- Where the caller of READ_BIT stores the bit it returns (R105): in `SR` by `ShiftIn(b)` (R144), or in `ACKB` (R142). -/
inductive BitUse
  | shiftIn | ackb
  deriving DecidableEq, Repr

/-- What a procedure is made of: a uop, or a register transfer the rules perform in the same step as the uop sequence
around it, without an event (R120, R122, R140, R141, R142). -/
inductive Micro
  | uop (u : Uop)
  /-- `framing <- f`. -/
  | framing (f : Framing)
  /-- `Load(x)` and `BITCNT <- 0`, with `x` from the latches. -/
  | load (src : ByteSrc)
  /-- `Clear()` and `BITCNT <- 0`. -/
  | clear
  /-- `BITCNT <- BITCNT + 1`. -/
  | countBit
  /-- The caller of a READ_BIT that returned `b` stores it. -/
  | store (use : BitUse) (b : Bool)
  deriving DecidableEq, Repr

/-- The value a command finishes with (R162): absent (INIT), the failure value 0x00, the boolean of the last ACK, or the byte read. -/
inductive FinishKind
  | absent | failure | ack | byte
  deriving DecidableEq, Repr

/-- One piece of the work that remains of a running command. -/
inductive Work
  | micro (m : Micro)
  /-- The end of READ_BIT (R131): SAMPLE_SDA, DRV_SCL, and the bit returned to the caller. -/
  | sampleEnd (use : BitUse)
  /-- The data-bit loop of WRITE_BYTE (R143). -/
  | sendBits
  /-- The data-bit loop of READ_BYTE (R144). -/
  | recvBits
  /-- `if ack == 0`: end the transfers, with a STOP or without, and finish with 0x00 (R163). -/
  | nakExit (stop : Bool)
  /-- `finish(r)` (R162). -/
  | finish (k : FinishKind)
  deriving DecidableEq, Repr

/-- The sequencer position (R35): `Idle`, or a position in the running command's procedure, held as the work that
remains of it; the bit a READ_BIT has sampled stands in the work that will store it. DESIGN CHOICE (log 5): R35 and I10
leave the representation open. -/
inductive Seq
  | idle
  | at (todo : List Work)
  deriving DecidableEq, Repr

/-- What one host read returned: the offset and the read datum (R51, R53). -/
structure HostRead where
  off : Offset
  value : Byte
  deriving DecidableEq, Repr

/-- The BBM: exactly the record of R20, under its names. Nothing else is state of the block (R39). -/
@[ext]
structure Block where
  /-- `scl_oe`: 1 = the BBM drives SCL low (R21). -/
  sclOe : Bool
  /-- `sda_oe`: 1 = the BBM drives SDA low (R21). -/
  sdaOe : Bool
  /-- `framing` (R23). -/
  framing : Framing
  /-- `trace`, oldest event first (R24; model-only). -/
  trace : List Event
  /-- `busy` (R25). -/
  busy : Bool
  /-- `seq` (R25, R35). -/
  seq : Seq
  /-- `op_l` (R26). -/
  opL : Byte
  /-- `saddr_l` (R26). -/
  saddrL : SlaveAddr
  /-- `reg_l` (R26). -/
  regL : Byte
  /-- `data_l` (R26). -/
  dataL : Byte
  /-- `SR` (R27). -/
  sr : Byte
  /-- `BITCNT`, 4 bits (R28). -/
  bitcnt : BitVec 4
  /-- `ACKB`: 0 = ACK, 1 = NAK (R29). -/
  ackb : Bool
  /-- `DCNT` (R38). -/
  dcnt : Nat
  /-- `RESULT` (R30). -/
  result : Byte
  /-- `SADDR` (R31). -/
  saddr : SlaveAddr
  /-- `REGSEL` (R31). -/
  regsel : Byte
  /-- `WDATA` (R31). -/
  wdata : Byte
  deriving DecidableEq, Repr

/-- What stands around the BBM: the parameters and the other three agents of R12, the host, the reset input and the bus
environment. It is no state of the BBM (R39); it travels with the block because `step` has no other argument (log 21). -/
@[ext]
structure World where
  /-- The parameters of R7, which no step changes (log 1). -/
  cfg : Config
  /-- Reset agent: the level of `rst` in the cycle before; a run of reset cycles is one reset (R230; log 9). -/
  resetHeld : Bool
  /-- Host and reset agent: what they will do, oldest first (log 10). -/
  inputs : List Input
  /-- Host: what it has read, oldest first (R18; log 11). -/
  reads : List HostRead
  /-- Bus environment: the levels it will present, one per draw, oldest first (R106; log 2). -/
  draws : List Bool
  /-- Bus environment: how many draws have been taken (log 2). -/
  drawn : Nat
  deriving DecidableEq, Repr

/-- The state of the model: the block, and the world around it. -/
@[ext]
structure State extends Block, World
  deriving DecidableEq, Repr

/-- The reasons a step could fault: none. R200: "The BBM raises no exception and has no trap", no operation has an
exception outcome and no host access faults. Nobody raises a fault, so there is nothing to call safe or unsafe. -/
inductive Fault
  deriving DecidableEq, Repr

/-- The reasons a step is refused. -/
inductive Refusal
  /-- An instruction without a meaning yet; raised by no arm of `exec`. Safe. -/
  | notModelled (mnemonic : String)
  /-- The parameters are not a BBM's (R7, R9, I3); raised by `step` before anything else. Safe. -/
  | badConfig
  /-- A UOP word that R74 gives no meaning (R79, I9); raised by `step` on such a word in the script. Safe. -/
  | invalidUop (w : Byte)
  /-- A PRIM word that R75 gives no meaning (R79, I9); raised by `step` on such a word in the script. Safe. -/
  | invalidPrim (w : Word16)
  deriving DecidableEq, Repr

/-- What `exec` and `step` answer. -/
abbrev Outcome := Host.Outcome State Fault Refusal

/-- The reset values of R40, with the trace empty, as it is at the beginning of a run (R24; log 8). -/
@[simps] def Block.reset : Block :=
  { sclOe := false, sdaOe := false, framing := .idle, trace := [], busy := false, seq := .idle,
    opL := 0x00, saddrL := 0x00, regL := 0x00, dataL := 0x00,
    sr := 0x00, bitcnt := 0, ackb := false, dcnt := 0,
    result := 0x00, saddr := 0x00, regsel := 0x00, wdata := 0x00 }

/-- The world at the beginning of a run: nothing has happened and nothing is scripted (log 1, 2, 9, 10, 11). -/
def World.initial : World :=
  { cfg := Config.initial, resetHeld := false, inputs := [], reads := [], draws := [], drawn := 0 }

/-- The machine right after reset (R40, R231), at the beginning of a run. -/
def State.reset : State := { toBlock := Block.reset, toWorld := World.initial }

end Sys2Proof.Machine
end

