-- ==== Sys2Proof/Machine/Ops.lean ====
section
/-! DEFINITION. The named updates of State, and the shared operations on the datapath and the trace. The `simps` attribute
of an update makes its one lemma per field, true by rfl and tagged simp: `State.emit_trace`, `State.emit_busy`, …, and one
that says which half of State, the block or the world, it leaves alone: `State.emit_toWorld`, `State.takeDraw_toBlock`. -/

namespace Sys2Proof.Machine

open Sys2Proof

/-- `trace <- trace ++ [e]` (R24). -/
@[simps sclOe sdaOe framing trace busy seq opL saddrL regL dataL sr bitcnt ackb dcnt result saddr regsel wdata toWorld]
def State.emit (e : Event) (s : State) : State := { s with trace := s.trace ++ [e] }

/-- `scl_oe <- v` (R21). -/
@[simps sclOe sdaOe framing trace busy seq opL saddrL regL dataL sr bitcnt ackb dcnt result saddr regsel wdata toWorld]
def State.setScl (v : Bool) (s : State) : State := { s with sclOe := v }

/-- `sda_oe <- v` (R21). -/
@[simps sclOe sdaOe framing trace busy seq opL saddrL regL dataL sr bitcnt ackb dcnt result saddr regsel wdata toWorld]
def State.setSda (v : Bool) (s : State) : State := { s with sdaOe := v }

/-- `framing <- f` (R23). -/
@[simps sclOe sdaOe framing trace busy seq opL saddrL regL dataL sr bitcnt ackb dcnt result saddr regsel wdata toWorld]
def State.setFraming (f : Framing) (s : State) : State := { s with framing := f }

/-- `DCNT <- n` (R38). -/
@[simps sclOe sdaOe framing trace busy seq opL saddrL regL dataL sr bitcnt ackb dcnt result saddr regsel wdata toWorld]
def State.setDcnt (n : Nat) (s : State) : State := { s with dcnt := n }

/-- `seq <- q` (R35). -/
@[simps sclOe sdaOe framing trace busy seq opL saddrL regL dataL sr bitcnt ackb dcnt result saddr regsel wdata toWorld]
def State.setSeq (q : Seq) (s : State) : State := { s with seq := q }

/-- `SADDR <- a` (R31). -/
@[simps sclOe sdaOe framing trace busy seq opL saddrL regL dataL sr bitcnt ackb dcnt result saddr regsel wdata toWorld]
def State.setSaddr (a : SlaveAddr) (s : State) : State := { s with saddr := a }

/-- `REGSEL <- v` (R31). -/
@[simps sclOe sdaOe framing trace busy seq opL saddrL regL dataL sr bitcnt ackb dcnt result saddr regsel wdata toWorld]
def State.setRegsel (v : Byte) (s : State) : State := { s with regsel := v }

/-- `WDATA <- v` (R31). -/
@[simps sclOe sdaOe framing trace busy seq opL saddrL regL dataL sr bitcnt ackb dcnt result saddr regsel wdata toWorld]
def State.setWdata (v : Byte) (s : State) : State := { s with wdata := v }

/-- The script that remains. -/
@[simps toBlock cfg resetHeld inputs reads draws drawn]
def State.setInputs (is : List Input) (s : State) : State := { s with inputs := is }

/-- Whether `rst` was 1 in the cycle just performed. -/
@[simps toBlock cfg resetHeld inputs reads draws drawn]
def State.setResetHeld (v : Bool) (s : State) : State := { s with resetHeld := v }

/-- Record what a host read returned (R53). -/
@[simps toBlock cfg resetHeld inputs reads draws drawn]
def State.logRead (r : HostRead) (s : State) : State := { s with reads := s.reads ++ [r] }

/-- One draw is taken from the environment (R106). -/
@[simps toBlock cfg resetHeld inputs reads draws drawn]
def State.takeDraw (s : State) : State := { s with draws := s.draws.tail, drawn := s.drawn + 1 }

/-- The latches, `busy` and the marker at acceptance (R160), all but `seq`. -/
@[simps sclOe sdaOe framing trace busy seq opL saddrL regL dataL sr bitcnt ackb dcnt result saddr regsel wdata toWorld]
def State.latch (op : Byte) (s : State) : State :=
  { s with opL := op, saddrL := s.saddr, regL := s.regsel, dataL := s.wdata, busy := true,
           trace := s.trace ++ [.cmd op] }

/-- `finish(r)` (R162): RESULT is written where `r` is a value; nothing else but `busy`, `seq` and the trace changes. -/
@[simps sclOe sdaOe framing trace busy seq opL saddrL regL dataL sr bitcnt ackb dcnt result saddr regsel wdata toWorld]
def State.finish (r : Option Byte) (s : State) : State :=
  { s with result := r.getD s.result, busy := false, seq := .idle, trace := s.trace ++ [.done r] }

/-- Every field of R20 to its value of R40. The trace gains one `Reset` unless the cycle before was a reset cycle too
(R230: a run of reset cycles counts as one). -/
@[simps] def State.resetFields (s : State) : State :=
  { s with
    toBlock := { Block.reset with trace := if s.resetHeld then s.trace else s.trace ++ [.reset] },
    resetHeld := true }

/-- Draw number `k` from now, where the environment has the levels `draws` to present and `drawn` draws have been taken:
the script of levels first, then the free value at the draw's own number (R106; log 2). -/
def drawAt (draws : List Bool) (drawn k : Nat) : Bool :=
  match draws[k]? with
  | some b => b
  | none => Config.freeSda (drawn + k)

/-- What `draw_sda()` will answer at its `k`-th next call (R106). -/
def State.nextDraw (s : State) (k : Nat) : Bool := drawAt s.draws s.drawn k

/-- The answers of the `n` draws from number `k` on (R106). -/
def State.nextDraws (s : State) (k n : Nat) : List Bool := (List.range n).map fun i => s.nextDraw (k + i)

/-- `Load(x)` of the shift register with `BITCNT <- 0` (R140, R141). -/
@[simps sclOe sdaOe framing trace busy seq opL saddrL regL dataL sr bitcnt ackb dcnt result saddr regsel wdata toWorld]
def State.loadByte (x : Byte) (s : State) : State := { s with sr := x, bitcnt := 0 }

/-- `Clear()` with `BITCNT <- 0` (R140, R141). -/
@[simps sclOe sdaOe framing trace busy seq opL saddrL regL dataL sr bitcnt ackb dcnt result saddr regsel wdata toWorld]
def State.clearByte (s : State) : State := { s with sr := 0x00, bitcnt := 0 }

/-- The bit `ShiftOut()` returns: `SR[7]` (R140). -/
def State.outBit (s : State) : Bool := s.sr.getLsbD 7

/-- `ShiftOut()`: `SR <- SR << 1` (R140). -/
@[simps sclOe sdaOe framing trace busy seq opL saddrL regL dataL sr bitcnt ackb dcnt result saddr regsel wdata toWorld]
def State.shiftOut (s : State) : State := { s with sr := s.sr <<< 1 }

/-- `ShiftIn(b)`: `SR <- (SR << 1) | zext_8(b)` (R140). -/
@[simps sclOe sdaOe framing trace busy seq opL saddrL regL dataL sr bitcnt ackb dcnt result saddr regsel wdata toWorld]
def State.shiftIn (b : Bool) (s : State) : State :=
  { s with sr := (s.sr <<< 1) ||| (BitVec.ofBool b).zeroExtend 8 }

/-- `BITCNT <- BITCNT + 1` (R141). -/
@[simps sclOe sdaOe framing trace busy seq opL saddrL regL dataL sr bitcnt ackb dcnt result saddr regsel wdata toWorld]
def State.countBit (s : State) : State := { s with bitcnt := s.bitcnt + 1 }

/-- DCNT counts down to 0, one `clk` cycle a decrement (R107). -/
def State.countDown : Nat → State → State
  | 0, s => s
  | n + 1, s => State.countDown n (s.setDcnt n)

end Sys2Proof.Machine
end

