-- ==== Sys2Proof/Machine/Flags.lean ====
section
/-! DEFINITION. The three status bits a rule reads (10_state.md R36) and the STATUS register (R32). -/

namespace Sys2Proof.Machine

open Sys2Proof

/-- The ACK sampler stores the ninth bit: `ACKB <- b` (R142). -/
@[simps sclOe sdaOe framing trace busy seq opL saddrL regL dataL sr bitcnt ackb dcnt result saddr regsel wdata toWorld]
def State.latchAck (b : Bool) (s : State) : State := { s with ackb := b }

/-- `ack`, the result of WRITE_BYTE: `ACKB == 0` (R142). -/
def State.acked (s : State) : Bool := !s.ackb

/-- `framing = ACTIVE`, as STATUS.BUS_ACTIVE shows it (R32). -/
def State.busActive (s : State) : Bool := decide (s.framing = .active)

/-- STATUS: bit 0 BUSY, bit 1 BUS_ACTIVE, bits 7:2 read 0 (R32, R53). -/
def State.status (s : State) : Byte :=
  0#6 ++ (BitVec.ofBool s.busActive ++ BitVec.ofBool s.busy)

end Sys2Proof.Machine
end

