-- ==== Sys2Proof/Machine/Bus.lean ====
section
/-! DEFINITION. The pads, the bus lines and the GPIO multiplexer (10_state.md R22, 40_line_primitives.md R100, R108), and
what an observer of the wire reads off the trace: the conditions of R112 and R233, and the symbols of R174. -/

namespace Sys2Proof.Machine

open Sys2Proof

/-- A driver state and a contribution of the environment make the level of a line, by wired-AND (R22). -/
def lineLevel (oe env : Bool) : Bool := !oe && env

/-- `scl_level`, from `env_scl` (R22). The BBM itself never reads it (R109; log 18). -/
def State.sclLevel (s : State) (envScl : Bool) : Bool := lineLevel s.sclOe envScl

/-- `sda_level`, from `env_sda` (R22); SAMPLE_SDA alone reads it (R110). -/
def State.sdaLevel (s : State) (envSda : Bool) : Bool := lineLevel s.sdaOe envSda

/-- The value a pad drives when its output is enabled: the constant 0 (R100). -/
def padValue : Bool := false

/-- The direction of a GPIO pin (R108). -/
inductive PinDir
  | input | output
  deriving DecidableEq, Repr

/-- `dir` and `level` of a GPIO pin, as the multiplexer sets them (R108). -/
structure PinSetting where
  dir : PinDir
  level : Bool
  deriving DecidableEq, Repr

/-- A driver bit as a pin setting: output for driven, input for released, the level always 0 (R100, R108). -/
def pinOf (oe : Bool) : PinSetting :=
  { dir := if oe then .output else .input, level := padValue }

/-- The GPIO multiplexer: what it sets pin number `pin` to; `none` for a pin it does not touch (R108). -/
def State.gpio (s : State) (pin : Nat) : Option PinSetting :=
  if pin = s.cfg.sclPin then some (pinOf s.sclOe)
  else if pin = s.cfg.sdaPin then some (pinOf s.sdaOe)
  else none

/-- The driver states of both lines. -/
structure Lines where
  sclOe : Bool
  sdaOe : Bool
  deriving DecidableEq, Repr

/-- The driver states of a state. -/
def State.lines (s : State) : Lines := { sclOe := s.sclOe, sdaOe := s.sdaOe }

/-- Both lines released. -/
def Lines.released : Lines := { sclOe := false, sdaOe := false }

/-- The driver states after an event (R24, R40). -/
def Lines.after (l : Lines) : Event → Lines
  | .relScl => { l with sclOe := false }
  | .drvScl => { l with sclOe := true }
  | .relSda => { l with sdaOe := false }
  | .drvSda => { l with sdaOe := true }
  | .reset => Lines.released
  | .delay | .sample _ | .cmd _ | .done _ => l

/-- A bus condition the BBM's drivers create (R112). -/
inductive Condition
  | start | stop
  deriving DecidableEq, Repr

/-- The condition event number `n` creates (R112). A reset that releases two driven lines may or may not create a stop
condition: R233 leaves it open, a free value (log 13). -/
def conditionOf (n : Nat) (l : Lines) : Event → Option Condition
  | .drvSda => if !l.sclOe && !l.sdaOe then some .start else none
  | .relSda => if !l.sclOe && l.sdaOe then some .stop else none
  | .reset =>
    if l.sdaOe then
      (if l.sclOe then (if Config.freeResetStop n then some .stop else none) else some .stop)
    else none
  | .relScl | .drvScl | .delay | .sample _ | .cmd _ | .done _ => none

/-- The conditions of a list of events that begins at event number `n` with the drivers at `l`, in order. -/
def conditionsFrom (n : Nat) (l : Lines) : List Event → List Condition
  | [] => []
  | e :: es => (conditionOf n l e).toList ++ conditionsFrom (n + 1) (l.after e) es

/-- One symbol on the wire (R174): a condition, or the bit of one SCL-high phase. -/
inductive Sym
  | cond (c : Condition)
  | bit (b : Bool)
  deriving DecidableEq, Repr

/-- The bit that the SCL-high phase will show, after an event: the level the BBM puts on SDA when SCL rises, or the
level sampled; none once the phase was a condition (log 19). -/
def phaseBit (l : Lines) (pending : Option Bool) : Event → Option Bool
  | .relScl => if l.sclOe then some (!l.sdaOe) else pending
  | .sample b => some b
  | .drvSda => if l.sclOe || l.sdaOe then pending else none
  | .relSda => if l.sclOe || !l.sdaOe then pending else none
  | .drvScl | .reset => none
  | .delay | .cmd _ | .done _ => pending

/-- The bit that an event completes: SCL falls at the end of a phase that was not a condition. -/
def bitOf (pending : Option Bool) : Event → List Sym
  | .drvScl => pending.toList.map Sym.bit
  | _ => []

/-- What an observer of the wire reads off a list of events (R174; log 19). -/
def wireFrom (n : Nat) (l : Lines) (pending : Option Bool) : List Event → List Sym
  | [] => []
  | e :: es =>
    (conditionOf n l e).toList.map Sym.cond ++ bitOf pending e ++
      wireFrom (n + 1) (l.after e) (phaseBit l pending e) es

/-- A byte as eight bits, most significant first (R58). -/
def byteBits (x : Byte) : List Bool :=
  [x.getLsbD 7, x.getLsbD 6, x.getLsbD 5, x.getLsbD 4, x.getLsbD 3, x.getLsbD 2, x.getLsbD 1, x.getLsbD 0]

/-- The value of bits received most significant first (R140). -/
def bitsByte (bs : List Bool) : Byte :=
  bs.foldl (fun x b => (x <<< 1) ||| (BitVec.ofBool b).zeroExtend 8) 0

/-- `x/A` or `x/N` on the wire: eight data bits and the ninth bit (R174). -/
def byteSyms (x : Byte) (ninth : Bool) : List Sym := (byteBits x).map Sym.bit ++ [Sym.bit ninth]

/-- The events of START (R120). -/
def startEvents : List Event := [.relScl, .relSda, .delay, .drvSda, .delay, .drvScl, .delay]

/-- The events of STOP (R122). -/
def stopEvents : List Event := [.drvSda, .delay, .relScl, .delay, .relSda, .delay]

/-- The events of WRITE_BIT v (R130). -/
def writeBitEvents (v : Bool) : List Event :=
  [if v then .relSda else .drvSda, .delay, .relScl, .delay, .drvScl, .delay]

/-- The events of READ_BIT sampling `b` (R131). -/
def readBitEvents (b : Bool) : List Event :=
  [.relSda, .delay, .relScl, .delay, .sample b, .drvScl]

/-- The events of WRITE_BYTE x, startFlag, stopFlag whose ninth bit is `ninth` (R143). -/
def writeByteEvents (x : Byte) (startFlag stopFlag ninth : Bool) : List Event :=
  (if startFlag then startEvents else []) ++ (byteBits x).flatMap writeBitEvents ++ readBitEvents ninth ++
    (if stopFlag then stopEvents else [])

/-- The events of READ_BYTE sendAckFlag, stopFlag whose samples are `bs` (R144). -/
def readByteEvents (bs : List Bool) (sendAckFlag stopFlag : Bool) : List Event :=
  bs.flatMap readBitEvents ++ writeBitEvents (!sendAckFlag) ++ (if stopFlag then stopEvents else [])

/-- Whether an event is a DELAY uop, for the cycle counts of R241. -/
def Event.isDelay : Event → Bool
  | .delay => true
  | .relScl | .drvScl | .relSda | .drvSda | .sample _ | .reset | .cmd _ | .done _ => false

/-- The `clk` cycles that uop events take: one each, and DELAY_CYCLES for a DELAY (R241). -/
def cyclesOf (delayCycles : Nat) : List Event → Nat
  | [] => 0
  | e :: es => (if e.isDelay then delayCycles else 1) + cyclesOf delayCycles es

end Sys2Proof.Machine
end

