-- ==== Sys2Proof/Machine/Line.lean ====
section
/-! DEFINITION. The six micro-operations (40_line_primitives.md R101 to R107). -/

namespace Sys2Proof.Machine

open Sys2Proof

/-- The bit SAMPLE_SDA returns (R105): wired-AND, so 0 while the BBM itself drives SDA, else the next draw. -/
def State.sampledBit (s : State) : Bool := if s.sdaOe then false else s.sdaLevel (s.nextDraw 0)

/-- What SAMPLE_SDA does (R105): its event, and one draw taken, or none while the BBM itself drives SDA. -/
def State.sampleSda (s : State) : State :=
  (if s.sdaOe then s else s.takeDraw).emit (.sample s.sampledBit)

/-- DELAY (R107) performed to its end: DCNT is loaded, counts down to 0, and the event is appended. -/
def State.delayUop (s : State) : State :=
  (State.countDown s.cfg.delayCycles (s.setDcnt s.cfg.delayCycles)).emit .delay

/-- One micro-operation (R101 to R107), which appends exactly one event (R24). -/
def doUop (u : Uop) (s : State) : State :=
  match u with
  | .relScl => (s.setScl false).emit .relScl
  | .drvScl => (s.setScl true).emit .drvScl
  | .relSda => (s.setSda false).emit .relSda
  | .drvSda => (s.setSda true).emit .drvSda
  | .delay => s.delayUop
  | .sampleSda => s.sampleSda

/-- REL_SCL: release SCL (R101). -/
def execRelScl (s : State) : Outcome := .next (doUop .relScl s)

/-- DRV_SCL: drive SCL low (R102). -/
def execDrvScl (s : State) : Outcome := .next (doUop .drvScl s)

/-- REL_SDA: release SDA (R103). -/
def execRelSda (s : State) : Outcome := .next (doUop .relSda s)

/-- DRV_SDA: drive SDA low (R104). -/
def execDrvSda (s : State) : Outcome := .next (doUop .drvSda s)

/-- DELAY: wait one delay unit (R107), as the event alone (R18; log 3). -/
def execDelay (s : State) : Outcome := .next (doUop .delay s)

/-- SAMPLE_SDA: sample the level of SDA (R105); the bit it returns is `State.sampledBit`, which its event records. -/
def execSampleSda (s : State) : Outcome := .next (doUop .sampleSda s)

end Sys2Proof.Machine
end

