-- ==== Sys2Proof/Machine/Operands.lean ====
section
/-! DEFINITION. Operand assembly (30_encoding.md R76, R77) and the sources a command takes its bytes from (R73). -/

namespace Sys2Proof.Machine

open Sys2Proof

/-- The address byte `AB(a, rw) = (zext_8(a) << 1) | zext_8(rw)` (R76). -/
def addrByte (a : SlaveAddr) (rw : Bool) : Byte :=
  (a.zeroExtend 8 <<< 1) ||| (BitVec.ofBool rw).zeroExtend 8

/-- A boolean result: 0x01 for true, 0x00 for false (R77). -/
def boolResult (b : Bool) : Byte := if b then 0x01 else 0x00

/-- The failure value of every command (R77, R163). -/
def failureValue : Byte := 0x00

/-- The byte a command sends, from the latches only (R26, R73). -/
def srcByte (src : ByteSrc) (s : State) : Byte :=
  match src with
  | .addrWrite => addrByte s.saddrL false
  | .addrRead => addrByte s.saddrL true
  | .reg => s.regL
  | .data => s.dataL

/-- The value a command finishes with (R162, R165 to R169). -/
def finishValue (k : FinishKind) (s : State) : Option Byte :=
  match k with
  | .absent => none
  | .failure => some failureValue
  | .ack => some (boolResult (!s.ackb))
  | .byte => some s.sr

end Sys2Proof.Machine
end

