-- ==== Sys2Proof/Machine/Procedures.lean ====
section
/-! DEFINITION. The fixed procedures (R66): the uop sequences of START, STOP, WRITE_BIT and READ_BIT, written once and
used both by the primitives run to their end and by the sequencer cycle by cycle, and the procedure of each command as work. -/

namespace Sys2Proof.Machine

open Sys2Proof

/-- The caller of READ_BIT stores the bit it returned (R105, R142, R144). -/
def State.storeBit (use : BitUse) (b : Bool) (s : State) : State :=
  match use with
  | .shiftIn => s.shiftIn b
  | .ackb => s.latchAck b

/-- One micro of a procedure. -/
def doMicro (m : Micro) (s : State) : State :=
  match m with
  | .uop u => doUop u s
  | .framing f => s.setFraming f
  | .load src => s.loadByte (srcByte src s)
  | .clear => s.clearByte
  | .countBit => s.countBit
  | .store use b => s.storeBit use b

/-- Micros in order, each completely before the next (R68, R111). -/
def runMicros (ms : List Micro) (s : State) : State := ms.foldl (fun t m => doMicro m t) s

/-- START (R120). -/
def startMicros : List Micro :=
  [.uop .relScl, .uop .relSda, .uop .delay, .uop .drvSda, .framing .active, .uop .delay, .uop .drvScl, .uop .delay]

/-- STOP (R122). -/
def stopMicros : List Micro :=
  [.uop .drvSda, .uop .delay, .uop .relScl, .uop .delay, .uop .relSda, .framing .idle, .uop .delay]

/-- WRITE_BIT v (R130): a 1 is sent by releasing SDA, a 0 by driving it low (C6). -/
def writeBitMicros (v : Bool) : List Micro :=
  [.uop (if v then .relSda else .drvSda), .uop .delay, .uop .relScl, .uop .delay, .uop .drvScl, .uop .delay]

/-- READ_BIT up to its sample (R131). -/
def readBitMicros : List Micro := [.uop .relSda, .uop .delay, .uop .relScl, .uop .delay]

/-- The body of INIT (R164). -/
def initMicros : List Micro := [.uop .relScl, .uop .relSda, .framing .idle, .uop .delay]

/-- Micros as work. -/
def micros (ms : List Micro) : List Work := ms.map Work.micro

/-- READ_BIT as work (R131), with what its caller does with the bit: no DELAY after the sample or the last DRV_SCL (C2). -/
def readBitWork (use : BitUse) : List Work := micros readBitMicros ++ [.sampleEnd use]

/-- WRITE_BYTE of a byte from the latches as work (R143). -/
def writeByteWork (src : ByteSrc) (startFlag stopFlag : Bool) : List Work :=
  (if startFlag then micros startMicros else []) ++
    [.micro (.load src), .sendBits] ++ readBitWork .ackb ++
    (if stopFlag then micros stopMicros else [])

/-- READ_BYTE as work (R144). -/
def readByteWork (sendAckFlag stopFlag : Bool) : List Work :=
  [.micro .clear, .recvBits] ++ micros (writeBitMicros (!sendAckFlag)) ++
    (if stopFlag then micros stopMicros else [])

/-- The procedure of a command (R164 to R169). -/
def procedureOf (cfg : Config) : Cmd → List Work
  | .init => micros initMicros ++ [.finish .absent]
  | .sendByte =>
    writeByteWork .addrWrite true false ++ [.nakExit true] ++
    writeByteWork .data false true ++ [.finish .ack]
  | .receiveByte =>
    writeByteWork .addrRead true false ++ [.nakExit cfg.rbNakStop] ++
    readByteWork false true ++ [.finish .byte]
  | .sendByteData =>
    writeByteWork .addrWrite true false ++ [.nakExit true] ++
    writeByteWork .reg false false ++ [.nakExit true] ++
    writeByteWork .data false true ++ [.finish .ack]
  | .receiveByteData =>
    writeByteWork .addrWrite true false ++ [.nakExit true] ++
    writeByteWork .reg false false ++ [.nakExit true] ++
    writeByteWork .addrRead true false ++ [.nakExit true] ++
    readByteWork false true ++ [.finish .byte]

/-- Acceptance of a command (R160): the latches, `busy`, the marker, and `seq` at the procedure's first uop. -/
def accept (c : Cmd) (s : State) : State := (s.latch c.code).setSeq (.at (procedureOf s.cfg c))

end Sys2Proof.Machine
end

