-- ==== Sys2Proof/Machine/Bits.lean ====
section
/-! DEFINITION. The bit primitives WRITE_BIT and READ_BIT (42_bit_transfer.md R130, R131). -/

namespace Sys2Proof.Machine

open Sys2Proof

/-- `call WRITE_BIT(v)` (R130). -/
def callWriteBit (v : Bool) (s : State) : State := runMicros (writeBitMicros v) s

/-- `call READ_BIT` (R131): the bit it returns, and the state after it. -/
def callReadBit (s : State) : Bool × State :=
  let s1 := runMicros readBitMicros s
  (s1.sampledBit, doUop .drvScl s1.sampleSda)

/-- WRITE_BIT v run directly (R130). -/
def execWriteBit (v : Bool) (s : State) : Outcome := .next (callWriteBit v s)

/-- READ_BIT run directly (R131); the bit it returns goes to nobody but the trace. -/
def execReadBit (s : State) : Outcome := .next (callReadBit s).2

end Sys2Proof.Machine
end

