-- ==== Sys2Proof/Machine/Framing.lean ====
section
/-! DEFINITION. The compound primitives START and STOP (41_framing.md R120 to R123). -/

namespace Sys2Proof.Machine

open Sys2Proof

/-- `call START` (R120); in ACTIVE it is a repeated start (R121). -/
def callStart (s : State) : State := runMicros startMicros s

/-- `call STOP` (R122). -/
def callStop (s : State) : State := runMicros stopMicros s

/-- START run directly (R120, R125). -/
def execStart (s : State) : Outcome := .next (callStart s)

/-- STOP run directly (R122, R125). -/
def execStop (s : State) : Outcome := .next (callStop s)

end Sys2Proof.Machine
end

