-- ==== Sys2Proof/Machine/Bytes.lean ====
section
/-! DEFINITION. The byte primitives WRITE_BYTE and READ_BYTE (43_byte_transfer.md R140 to R147). -/

namespace Sys2Proof.Machine

open Sys2Proof

/-- One turn of WRITE_BYTE's loop: `call WRITE_BIT(ShiftOut())`, then `BITCNT <- BITCNT + 1` (R143). -/
def sendBit (s : State) : State := (callWriteBit s.outBit s.shiftOut).countBit

/-- One turn of READ_BYTE's loop: `b <- call READ_BIT`, `ShiftIn(b)`, `BITCNT <- BITCNT + 1` (R144). -/
def recvBit (s : State) : State := (((callReadBit s).2).shiftIn (callReadBit s).1).countBit

/-- `while BITCNT != 8` over WRITE_BYTE's turn (R141): at most as many turns as the fuel, and the callers start it
with BITCNT = 0 and fuel 8. -/
def sendBits : Nat → State → State
  | 0, s => s
  | n + 1, s => if s.bitcnt = 8 then s else sendBits n (sendBit s)

/-- `while BITCNT != 8` over READ_BYTE's turn (R141). -/
def recvBits : Nat → State → State
  | 0, s => s
  | n + 1, s => if s.bitcnt = 8 then s else recvBits n (recvBit s)

/-- `call WRITE_BYTE(x, start_flag, stop_flag)` (R143); its result `ack` is `State.acked`. -/
def callWriteByte (x : Byte) (startFlag stopFlag : Bool) (s : State) : State :=
  let s1 := if startFlag then callStart s else s
  let s2 := sendBits 8 (s1.loadByte x)
  let s3 := ((callReadBit s2).2).latchAck (callReadBit s2).1
  if stopFlag then callStop s3 else s3

/-- `call READ_BYTE(send_ack_flag, stop_flag)` (R144); its result is `SR`. -/
def callReadByte (sendAckFlag stopFlag : Bool) (s : State) : State :=
  let s1 := recvBits 8 s.clearByte
  let s2 := callWriteBit (!sendAckFlag) s1
  if stopFlag then callStop s2 else s2

/-- WRITE_BYTE run directly (R143). -/
def execWriteByte (x : Byte) (startFlag stopFlag : Bool) (s : State) : Outcome :=
  .next (callWriteByte x startFlag stopFlag s)

/-- READ_BYTE run directly (R144). -/
def execReadByte (sendAckFlag stopFlag : Bool) (s : State) : Outcome :=
  .next (callReadByte sendAckFlag stopFlag s)

end Sys2Proof.Machine
end

