-- ==== Sys2Proof/Machine/Commands.lean ====
section
/-! DEFINITION. The five commands (44_transactions.md R160 to R169), each from its acceptance to its completion:
one indivisible transaction with respect to the host (20_memory.md R65; log 3). -/

namespace Sys2Proof.Machine

open Sys2Proof

/-- A command written to CMD: ignored with no effect while `busy = 1` (R161), else accepted (R160) and run to its end. -/
def command (c : Cmd) (procedure : State → State) (s : State) : Outcome :=
  if s.busy then .next s else .next (procedure (accept c s))

/-- The abort path of R163: one STOP where `stop` holds, and the failure value. -/
def nakAbort (stop : Bool) (s : State) : State :=
  (if stop then callStop s else s).finish (some failureValue)

/-- The procedure of INIT (R164). -/
def procInit (s : State) : State := (runMicros initMicros s).finish none

/-- The procedure of SEND_BYTE (R165). -/
def procSendByte (s : State) : State :=
  let s1 := callWriteByte (addrByte s.saddrL false) true false s
  if !s1.acked then nakAbort true s1
  else
    let s2 := callWriteByte s1.dataL false true s1
    s2.finish (some (boolResult s2.acked))

/-- The procedure of RECEIVE_BYTE (R167): after an address NAK it stops only with `RB_NAK_STOP = 1` (R10). -/
def procReceiveByte (s : State) : State :=
  let s1 := callWriteByte (addrByte s.saddrL true) true false s
  if !s1.acked then nakAbort s1.cfg.rbNakStop s1
  else
    let s2 := callReadByte false true s1
    s2.finish (some s2.sr)

/-- The procedure of SEND_BYTE_DATA (R168). -/
def procSendByteData (s : State) : State :=
  let s1 := callWriteByte (addrByte s.saddrL false) true false s
  if !s1.acked then nakAbort true s1
  else
    let s2 := callWriteByte s1.regL false false s1
    if !s2.acked then nakAbort true s2
    else
      let s3 := callWriteByte s2.dataL false true s2
      s3.finish (some (boolResult s3.acked))

/-- The procedure of RECEIVE_BYTE_DATA (R169): the second START is a repeated start (R121). -/
def procReceiveByteData (s : State) : State :=
  let s1 := callWriteByte (addrByte s.saddrL false) true false s
  if !s1.acked then nakAbort true s1
  else
    let s2 := callWriteByte s1.regL false false s1
    if !s2.acked then nakAbort true s2
    else
      let s3 := callWriteByte (addrByte s2.saddrL true) true false s2
      if !s3.acked then nakAbort true s3
      else
        let s4 := callReadByte false true s3
        s4.finish (some s4.sr)

/-- INIT (R164). -/
def execInit (s : State) : Outcome := command .init procInit s

/-- SEND_BYTE (R165, R166). -/
def execSendByte (s : State) : Outcome := command .sendByte procSendByte s

/-- RECEIVE_BYTE (R167). -/
def execReceiveByte (s : State) : Outcome := command .receiveByte procReceiveByte s

/-- SEND_BYTE_DATA (R168, R166). -/
def execSendByteData (s : State) : Outcome := command .sendByteData procSendByteData s

/-- RECEIVE_BYTE_DATA (R169). -/
def execReceiveByteData (s : State) : Outcome := command .receiveByteData procReceiveByteData s

end Sys2Proof.Machine
end

