-- ==== Sys2Proof/Machine/Dispatch.lean ====
section
/-! DEFINITION. The dispatch of an instruction to its meaning, one arm a constructor. -/

namespace Sys2Proof.Machine

open Sys2Proof

-- What an instruction does (30_encoding.md R72, R74, R75 name the rule of each).
def exec (i : Instr) (s : State) : Host.Outcome State Fault Refusal :=
  match i with
  | .init => Sys2Proof.Machine.execInit s
  | .sendByte => Sys2Proof.Machine.execSendByte s
  | .receiveByte => Sys2Proof.Machine.execReceiveByte s
  | .sendByteData => Sys2Proof.Machine.execSendByteData s
  | .receiveByteData => Sys2Proof.Machine.execReceiveByteData s
  | .relScl => Sys2Proof.Machine.execRelScl s
  | .drvScl => Sys2Proof.Machine.execDrvScl s
  | .relSda => Sys2Proof.Machine.execRelSda s
  | .drvSda => Sys2Proof.Machine.execDrvSda s
  | .delay => Sys2Proof.Machine.execDelay s
  | .sampleSda => Sys2Proof.Machine.execSampleSda s
  | .start => Sys2Proof.Machine.execStart s
  | .stop => Sys2Proof.Machine.execStop s
  | .writeBit v => Sys2Proof.Machine.execWriteBit v s
  | .readBit => Sys2Proof.Machine.execReadBit s
  | .writeByte x f g => Sys2Proof.Machine.execWriteByte x f g s
  | .readByte f g => Sys2Proof.Machine.execReadByte f g s

end Sys2Proof.Machine
end

