-- ==== Sys2Proof/Machine/Sequencer.lean ====
section
/-! DEFINITION. The sequencer cycle by cycle (10_state.md R35, 70_reset_and_hazards.md R241): one uop a cycle, a DELAY over
DELAY_CYCLES cycles, completion in the cycle after the last uop. -/

namespace Sys2Proof.Machine

open Sys2Proof

/-- The position at which the work `ws` begins: the register transfers and branches up to the next uop are performed,
in the cycle that ends before it, since they take no cycle of their own (R140, R241; log 6). -/
def settle : List Work → State → State
  | [], s => s.setSeq (.at [])
  | .micro (.uop u) :: ws, s => s.setSeq (.at (.micro (.uop u) :: ws))
  | .micro m :: ws, s => settle ws (doMicro m s)
  | .sampleEnd use :: ws, s => s.setSeq (.at (.sampleEnd use :: ws))
  | .sendBits :: ws, s =>
    if s.bitcnt = 8 then settle ws s
    else s.shiftOut.setSeq (.at (micros (writeBitMicros s.outBit) ++ [.micro .countBit, .sendBits] ++ ws))
  | .recvBits :: ws, s =>
    if s.bitcnt = 8 then settle ws s
    else s.setSeq (.at (readBitWork .shiftIn ++ [.micro .countBit, .recvBits] ++ ws))
  | .nakExit stop :: ws, s =>
    if !s.acked then s.setSeq (.at ((if stop then micros stopMicros else []) ++ [.finish .failure]))
    else settle ws s
  | .finish k :: ws, s => s.setSeq (.at (.finish k :: ws))

/-- One `clk` cycle of a DELAY (R107): its first cycle loads DCNT, every cycle decrements it, and the uop ends in the
cycle in which it reaches 0. Outside DELAY DCNT is 0 (R38), so 0 tells the first cycle. -/
def delayCycle (rest : List Work) (s : State) : State :=
  let d := (if s.dcnt = 0 then s.cfg.delayCycles else s.dcnt) - 1
  if d = 0 then settle rest ((s.setDcnt 0).emit .delay) else s.setDcnt d

/-- One `clk` cycle of the running command. -/
def sequencerCycle (s : State) : State :=
  match s.seq with
  | .idle => s
  | .at [] => s
  | .at (.micro (.uop .delay) :: ws) => delayCycle ws s
  | .at (.micro (.uop u) :: ws) => settle ws (doUop u s)
  | .at (.sampleEnd use :: ws) =>
    s.sampleSda.setSeq (.at (.micro (.uop .drvScl) :: .micro (.store use s.sampledBit) :: ws))
  | .at (.finish k :: _) => s.finish (finishValue k s)
  | .at (w :: ws) => settle (w :: ws) s

end Sys2Proof.Machine
end

