-- ==== Sys2Proof/Machine/HostPort.lean ====
section
/-! DEFINITION. The host register space (20_memory.md R52 to R54), one clock cycle with its host access, and reset
(70_reset_and_hazards.md R230). -/

namespace Sys2Proof.Machine

open Sys2Proof

/-- `RegRead(off)` (R53). -/
def State.regRead (s : State) (off : Offset) : Byte :=
  if off = 1 then s.saddr.zeroExtend 8
  else if off = 2 then s.regsel
  else if off = 3 then s.wdata
  else if off = 4 then s.status
  else if off = 5 then s.result
  else 0x00

/-- A write to CMD: accepted when `busy = 0` and the code is a command's (R160), else no effect at all (R161). -/
def writeCmd (v : Byte) (s : State) : State :=
  match Cmd.ofCode v with
  | some c => if s.busy then s else accept c s
  | none => s

/-- `RegWrite(off, v)` (R54). -/
def regWrite (off : Offset) (v : Byte) (s : State) : State :=
  if off = 0 then writeCmd v s
  else if off = 1 then s.setSaddr (v.truncate 7)
  else if off = 2 then s.setRegsel v
  else if off = 3 then s.setWdata v
  else s

/-- A host access; what a read returned is recorded (log 11). -/
def hostAccess (a : Access) (s : State) : State :=
  match a with
  | .none => s
  | .rd off => s.logRead { off := off, value := s.regRead off }
  | .wr off v => regWrite off v s

/-- One `clk` cycle with `rst = 0`. The host's access sees the values at the start of the cycle (R205; log 20), and the
sequencer acts if a command was running at the start of the cycle: the first uop of a command is performed in a later
cycle than its acceptance (R160). -/
def clockCycle (a : Access) (s : State) : State :=
  let t := hostAccess a (s.setResetHeld false)
  if s.busy then sequencerCycle t else t

/-- One `clk` cycle with `rst = 1` (R230): every element takes its reset value, a host write has no effect, and a host
read returns the reset values. -/
def resetCycle (a : Access) (s : State) : State :=
  match a with
  | .rd off => s.resetFields.logRead { off := off, value := s.resetFields.regRead off }
  | .none | .wr _ _ => s.resetFields

/-- The offset of STATUS (R52). -/
def statusOff : Offset := 4

/-- One cycle of `wait` (R82): STATUS is read, and the statement is over when the value read has BUSY = 0 (log 12). -/
def waitCycle (rest : List Input) (s : State) : State :=
  clockCycle (.rd statusOff) (if s.status.getLsbD 0 then s else s.setInputs rest)

/-- `i2c.init` (R83). -/
def hostInit : List Input := [.cycle (.wr 0 0x01), .wait]

/-- `i2c.send_byte a, d` (R83). -/
def hostSendByte (a d : Byte) : List Input :=
  [.cycle (.wr 1 a), .cycle (.wr 3 d), .cycle (.wr 0 0x02), .wait, .cycle (.rd 5)]

/-- `i2c.receive_byte a` (R83). -/
def hostReceiveByte (a : Byte) : List Input :=
  [.cycle (.wr 1 a), .cycle (.wr 0 0x03), .wait, .cycle (.rd 5)]

/-- `i2c.send_byte_data a, r, d` (R83). -/
def hostSendByteData (a r d : Byte) : List Input :=
  [.cycle (.wr 1 a), .cycle (.wr 2 r), .cycle (.wr 3 d), .cycle (.wr 0 0x04), .wait, .cycle (.rd 5)]

/-- `i2c.receive_byte_data a, r` (R83). -/
def hostReceiveByteData (a r : Byte) : List Input :=
  [.cycle (.wr 1 a), .cycle (.wr 2 r), .cycle (.wr 0 0x05), .wait, .cycle (.rd 5)]

end Sys2Proof.Machine
end

