-- ==== Sys2Proof/Machine/Fetch.lean ====
section
/-! DEFINITION. What the next step performs, from the script (log 10), and how a word is placed to be the next. -/

namespace Sys2Proof.Machine

open Sys2Proof

/-- What the head of the script asks of the next step. -/
inductive Fetched
  /-- A clock cycle, already performed. -/
  | cycle (s : State)
  /-- An instruction to execute at this state. -/
  | instr (i : Instr) (s : State)
  /-- A word the model refuses. -/
  | refuse (r : Refusal)
  deriving DecidableEq, Repr

/-- A word at the head of the script, with `s` the state that has moved past it: an instruction, a reserved command
byte, which is ignored (R78, R161), or an invalid internal word, which is refused (R79). -/
def fetchWord (w : EncWord) (s : State) : Fetched :=
  match decode w with
  | .ok i => .instr i s
  | .reservedCmd _ => .cycle s
  | .invalidUop v => .refuse (.invalidUop v)
  | .invalidPrim v => .refuse (.invalidPrim v)

/-- `s` past the word at the head of its script, `rest` being what is left of the script. -/
def State.pastWord (rest : List Input) (s : State) : State := (s.setInputs rest).setResetHeld false

/-- The head of the script; an empty script is a cycle without a host access. -/
def fetch (s : State) : Fetched :=
  match s.inputs with
  | [] => .cycle (clockCycle .none s)
  | .cycle a :: rest => .cycle (clockCycle a (s.setInputs rest))
  | .wait :: rest => .cycle (waitCycle rest s)
  | .rst a :: rest => .cycle (resetCycle a (s.setInputs rest))
  | .word w :: rest => fetchWord w (s.pastWord rest)

/-- `s` with this word at the head of the script. -/
def State.placeWord (s : State) (w : EncWord) : State := s.setInputs (.word w :: s.inputs)

end Sys2Proof.Machine
end

