-- ==== Sys2Proof/Machine/Step.lean ====
section
/-! DEFINITION. The step: a configuration that is not a BBM is refused (R9, I3), else the head of the script is performed. -/

namespace Sys2Proof.Machine

open Sys2Proof

/-- One step of the machine. -/
def step (s : State) : Host.Outcome State Fault Refusal :=
  if s.cfg.wellFormed then
    match fetch s with
    | .cycle t => .next t
    | .instr i t => exec i t
    | .refuse r => .refused r
  else .refused .badConfig

/-- `s` with the word of the opcode table placed so that the next step runs it: at the head of the script. A word of a
width that no format has is placed nowhere. -/
def State.withFetchWord (s : State) (nbits w : Nat) : State :=
  match tableWord nbits w with
  | some e => s.placeWord e
  | none => s

end Sys2Proof.Machine
end

