-- ==== Sys2Proof/Safety.lean ====
section
/-! DEFINITION. What counts as a safe run: the host drives the block through its registers only, the lines rest as R41
says when no command runs, and at every position of a running command the rest of the procedure changes SDA with SCL
released only to make a framing condition (R239) and ends with the lines at rest. -/

namespace Sys2Proof.Machine

open Sys2Proof

/-- `n` steps, up to the first that stops. -/
def runSteps : Nat → State → Outcome
  | 0, s => .next s
  | n + 1, s => match step s with
    | .next t => runSteps n t
    | .fault r => .fault r
    | .refused r => .refused r

/-- An entry of the script that the hardware's outside world can make: no internal word run directly (R70; log 4). -/
def hostEntry : Input → Bool
  | .cycle _ | .wait | .rst _ | .word (.cmd _) => true
  | .word (.uop _) | .word (.prim _) => false

/-- R41: with no command running, IDLE means both lines released, and ACTIVE means SCL driven and SDA released, which
only `RB_NAK_STOP = 0` can leave. -/
def quietLines (rbNakStop : Bool) (l : Lines) (f : Framing) : Bool :=
  match f with
  | .idle => !l.sclOe && !l.sdaOe
  | .active => l.sclOe && !l.sdaOe && !rbNakStop

/-- The work that follows records the framing change `f` at once (R120, R122, R164). -/
def setsFraming (f : Framing) : List Work → Bool
  | .micro (.framing g) :: _ => decide (f = g)
  | _ => false

/-- The work that follows is a data-bit loop. -/
def atLoop : List Work → Bool
  | .sendBits :: _ | .recvBits :: _ => true
  | _ => false

/-- The work begins with a uop or the completion, as every position between two cycles does. -/
def startsAtUop : List Work → Bool
  | .micro (.uop _) :: _ | .sampleEnd _ :: _ | .finish _ :: _ => true
  | _ => false

/-- A data bit is under way that BITCNT has not counted yet. -/
def countPending : List Work → Bool
  | .micro .countBit :: _ => true
  | .micro _ :: ws | .sampleEnd _ :: ws => countPending ws
  | _ => false

/-- Work that is safe to perform with the drivers at `l` and the framing `f`, whatever is sampled: an SDA change with SCL
released is a start condition recorded as ACTIVE or a stop condition recorded as IDLE (R112, R239), a data bit begins in
ACTIVE with SCL driven (R123, R133), each data bit is counted once in its own loop (R141), and every way to the end leaves the lines at rest (R41). -/
def safeFrom (rbNakStop : Bool) : List Work → Lines → Framing → Bool
  | [], _, _ => false
  | .micro (.uop u) :: ws, l, f =>
    match u with
    | .relScl => safeFrom rbNakStop ws { l with sclOe := false } f
    | .drvScl => safeFrom rbNakStop ws { l with sclOe := true } f
    | .relSda => (l.sclOe || !l.sdaOe || setsFraming .idle ws) && safeFrom rbNakStop ws { l with sdaOe := false } f
    | .drvSda => (l.sclOe || l.sdaOe || setsFraming .active ws) && safeFrom rbNakStop ws { l with sdaOe := true } f
    | .delay | .sampleSda => safeFrom rbNakStop ws l f
  | .micro (.framing g) :: ws, l, _ => startsAtUop ws && safeFrom rbNakStop ws l g
  | .micro .countBit :: ws, l, f => atLoop ws && safeFrom rbNakStop ws l f
  | .micro (.load _) :: ws, l, f => safeFrom rbNakStop ws l f
  | .micro .clear :: ws, l, f => safeFrom rbNakStop ws l f
  | .micro (.store _ _) :: ws, l, f => safeFrom rbNakStop ws l f
  | .sampleEnd _ :: ws, l, f => safeFrom rbNakStop ws { l with sclOe := true } f
  | .sendBits :: ws, l, f =>
    l.sclOe && decide (f = .active) && !countPending ws &&
      safeFrom rbNakStop ws { sclOe := true, sdaOe := false } f && safeFrom rbNakStop ws { sclOe := true, sdaOe := true } f
  | .recvBits :: ws, l, f =>
    l.sclOe && decide (f = .active) && !countPending ws &&
      safeFrom rbNakStop ws { sclOe := true, sdaOe := false } f && safeFrom rbNakStop ws l f
  | .nakExit stop :: ws, l, f =>
    (if stop then l.sclOe else quietLines rbNakStop l f) && !countPending ws && safeFrom rbNakStop ws l f
  | .finish _ :: _, l, f => quietLines rbNakStop l f

/-- The work begins with a DELAY. -/
def startsAtDelay : List Work → Bool
  | .micro (.uop .delay) :: _ => true
  | _ => false

/-- A position of a running command that can be reached between two cycles. -/
def positionOk (s : State) (ws : List Work) : Bool :=
  startsAtUop ws && safeFrom s.cfg.rbNakStop ws s.lines s.framing &&
    (!countPending ws || decide (s.bitcnt.toNat < 8)) &&
    (decide (s.dcnt = 0) || (startsAtDelay ws && decide (s.dcnt < s.cfg.delayCycles)))

/-- The invariant of a block driven by its host: a BBM's parameters, a host's script, BITCNT in 0 to 8 (R28), and with no
command running `seq = Idle` (R25), `DCNT = 0` (R38) and the lines at rest (R41), else a safe position. -/
def State.inv (s : State) : Bool :=
  s.cfg.wellFormed && s.inputs.all hostEntry && decide (s.bitcnt.toNat ≤ 8) &&
    match s.busy, s.seq with
    | false, .idle => decide (s.dcnt = 0) && quietLines s.cfg.rbNakStop s.lines s.framing
    | false, .at _ => false
    | true, .idle => false
    | true, .at ws => positionOk s ws

/-- The state a command that transferred bytes leaves (R160, R162), from what its rule gives: its code, the drivers and the
framing at the end, `SR`, `ACKB`, how many draws it took, its result, and its uop events.
Everything else is as before the command. -/
def commandEnd (s : State) (c : Cmd) (l : Lines) (f : Framing) (sr : Byte) (ackb : Bool) (draws : Nat)
    (result : Byte) (events : List Event) : State :=
  { s with
    opL := c.code, saddrL := s.saddr, regL := s.regsel, dataL := s.wdata, busy := false, seq := .idle,
    sclOe := l.sclOe, sdaOe := l.sdaOe, framing := f, sr := sr, bitcnt := 8, ackb := ackb, dcnt := 0,
    result := result, draws := s.draws.drop draws, drawn := s.drawn + draws,
    trace := s.trace ++ ([.cmd c.code] ++ events ++ [.done (some result)]) }

end Sys2Proof.Machine
end

