-- ==== Sys2Proof/Certificates/Slice0/Obligations.lean ====
section
/-! DEFINITION. The statements for the provers. -/

open Sys2Proof Sys2Proof.Machine

-- 1. Encodings.

/-- R85, R72, R74, R75: decoding the encoded word of any instruction gives the instruction back, every operand at every value. -/
def Obligations.DecodeOfEncodeIsTheInstruction : Prop :=
  ∀ i : Instr, decode (encode i) = .ok i

/-- R70, R85: each word has one meaning, so a word that decodes is the encoding of what it decodes to. -/
def Obligations.EncodeOfDecodeIsTheWord : Prop :=
  ∀ (w : EncWord) (i : Instr), decode w = .ok i → encode i = w

/-- R72, R74, R75, R78, R79: the decoders accept exactly the words that keep the formats' "must be" rules, and each
refusal names its format. -/
def Obligations.DecodersAcceptExactlyTheWellFormedWords : Prop :=
  (∀ w : EncWord, (∃ i, decode w = .ok i) ↔ w.wellFormed = true) ∧
  (∀ v : Byte, cmdWordOk v = false → decode (.cmd v) = .reservedCmd v) ∧
  (∀ v : Byte, uopWordOk v = false → decode (.uop v) = .invalidUop v) ∧
  (∀ v : Word16, primWordOk v = false → decode (.prim v) = .invalidPrim v)

/-- R72, R74, R75: words of every family written out from the encodings, as the opcode table numbers their bits. -/
def Obligations.WrittenWordsDecodeToTheirInstructions : Prop :=
  decodeTableWord 8 0x01 = some .init ∧ decodeTableWord 8 0x05 = some .receiveByteData ∧
  decodeTableWord 8 0x10 = some .relScl ∧ decodeTableWord 8 0x15 = some .sampleSda ∧
  decodeTableWord 16 0x1000 = some .start ∧ decodeTableWord 16 0x3100 = some (.writeBit true) ∧
  decodeTableWord 16 0x5288 = some (.writeByte 0x88 true false) ∧
  decodeTableWord 16 0x6100 = some (.readByte false true) ∧
  decodeTableWord 8 0x06 = none ∧ decodeTableWord 16 0x1001 = none

/-- R82: every host access is read back from its 12-bit access word. -/
def Obligations.AccessWordsReadBack : Prop :=
  ∀ a : Access, ∀ w, a.encode = some w → Access.decode w = some a

-- 2. The step.

/-- A word at the head of the script is executed by the next step, at the state that has moved past it; a word of the
opcode table that is placed to be fetched is the very next instruction. -/
def Obligations.StepExecutesTheDecodedInstruction : Prop :=
  (∀ (s : State) (w : EncWord) (rest : List Input) (i : Instr),
    s.cfg.wellFormed = true → s.inputs = .word w :: rest → decode w = .ok i →
      step s = exec i { s with inputs := rest, resetHeld := false }) ∧
  (∀ (s : State) (nbits w : Nat) (i : Instr),
    s.cfg.wellFormed = true → decodeTableWord nbits w = some i →
      step (s.withFetchWord nbits w) = exec i { s with resetHeld := false })

/-- R79, I9: an invalid internal word in the script is refused by name. -/
def Obligations.InvalidInternalWordsAreRefused : Prop :=
  ∀ (s : State) (rest : List Input), s.cfg.wellFormed = true →
    (∀ w, uopWordOk w = false → s.inputs = .word (.uop w) :: rest → step s = .refused (.invalidUop w)) ∧
    (∀ w, primWordOk w = false → s.inputs = .word (.prim w) :: rest → step s = .refused (.invalidPrim w))

/-- R9, R7: the parameters are no runtime state, and a configuration with both lines on one pin is refused. -/
def Obligations.ParametersAreFixedAndOnePinIsRefused : Prop :=
  (∀ s t : State, step s = .next t → t.cfg = s.cfg) ∧
  (∀ s : State, s.cfg.sclPin = s.cfg.sdaPin → step s = .refused .badConfig)

/-- R213: with no command running and no host access the block keeps all its state. -/
def Obligations.IdleBlockKeepsItsState : Prop :=
  ∀ s : State, s.cfg.wellFormed = true → s.busy = false → s.inputs = [] →
    step s = .next { s with resetHeld := false }

-- 3. Reset.

/-- R231: what reset leaves, and that INIT from there ends with the same lines and framing. -/
def Obligations.ResetLeavesTheIdleBus : Prop :=
  State.reset.lines = Lines.released ∧ State.reset.framing = .idle ∧ State.reset.busy = false ∧
  State.reset.seq = .idle ∧ State.reset.regRead 4 = 0x00 ∧ State.reset.regRead 5 = 0x00 ∧
  State.reset.regRead 1 = 0x00 ∧ State.reset.regRead 2 = 0x00 ∧ State.reset.regRead 3 = 0x00 ∧
  ∃ t, exec .init State.reset = .next t ∧ t.lines = Lines.released ∧ t.framing = .idle

/-- R40, R232: a reset cycle sets every element to its reset value whatever else happens in it; a running command is
abandoned, with no further uop, no STOP and no `Done`; a host read in it returns the reset value. The trace's clause is for
the first cycle of a reset: a run of reset cycles is one reset (R230, RunOfResetCyclesIsOneReset). -/
def Obligations.ResetCycleSetsEveryElement : Prop :=
  ∀ (s : State) (a : Access) (rest : List Input),
    s.cfg.wellFormed = true → s.inputs = .rst a :: rest →
      ∃ t, step s = .next t ∧
        t.sclOe = false ∧ t.sdaOe = false ∧ t.framing = .idle ∧ t.busy = false ∧ t.seq = .idle ∧
        t.opL = 0x00 ∧ t.saddrL = 0x00 ∧ t.regL = 0x00 ∧ t.dataL = 0x00 ∧ t.sr = 0x00 ∧ t.bitcnt = 0 ∧
        t.ackb = false ∧ t.dcnt = 0 ∧ t.result = 0x00 ∧ t.saddr = 0x00 ∧ t.regsel = 0x00 ∧ t.wdata = 0x00 ∧
        (s.resetHeld = false → t.trace = s.trace ++ [.reset]) ∧
        t.regRead 4 = 0x00 ∧ t.lines = Lines.released ∧
        t.cfg = s.cfg ∧ t.inputs = rest ∧ t.draws = s.draws ∧ t.drawn = s.drawn ∧
        t.reads = s.reads ++ (match a with
          | .rd off => [{ off := off, value := 0x00 }]
          | .none | .wr _ _ => [])

/-- R230: a run of reset cycles counts as one reset, and a command write in the cycle after it is accepted. -/
def Obligations.RunOfResetCyclesIsOneReset : Prop :=
  ∀ (s : State) (n : Nat) (c : Cmd) (rest : List Input),
    s.cfg.wellFormed = true → s.resetHeld = false →
    s.inputs = List.replicate (n + 1) (.rst .none) ++ .cycle (.wr 0 c.code) :: rest →
      ∃ t u, runSteps (n + 1) s = .next t ∧ t.trace = s.trace ++ [.reset] ∧ t.busy = false ∧ t.seq = .idle ∧
        step t = .next u ∧ u.busy = true ∧ u.trace = s.trace ++ [.reset, .cmd c.code]

/-- The condition a reset makes on the wire with at most one line driven, by the MODEL'S READING (log 13, DEDUCED): earlier
sentences of R233 name these cases, its last sentence treats every condition made by reset as unspecified. -/
def Obligations.ResetConditionsWhereSpecified : Prop :=
  ∀ n : Nat,
    conditionOf n { sclOe := true, sdaOe := false } .reset = none ∧
    conditionOf n { sclOe := false, sdaOe := true } .reset = some .stop ∧
    conditionOf n { sclOe := false, sdaOe := false } .reset = none

-- 4. The host registers.

/-- R53, R32: what each register reads as. -/
def Obligations.RegisterReadsReturnTheRegisters : Prop :=
  ∀ s : State,
    s.regRead 0 = 0x00 ∧ (s.regRead 1).toNat = s.saddr.toNat ∧ s.regRead 2 = s.regsel ∧ s.regRead 3 = s.wdata ∧
    (s.regRead 4).getLsbD 0 = s.busy ∧ ((s.regRead 4).getLsbD 1 = true ↔ s.framing = .active) ∧
    (∀ k, 2 ≤ k → (s.regRead 4).getLsbD k = false) ∧
    s.regRead 5 = s.result ∧ s.regRead 6 = 0x00 ∧ s.regRead 7 = 0x00

/-- R56: a cycle with a host read does to the block exactly what the cycle without it does. That every read returns the
value at the start of its cycle is the MODEL'S CHOICE (log 20, DEDUCED): R205 says it of RESULT and STATUS at completion. -/
def Obligations.ReadsHaveNoSideEffect : Prop :=
  ∀ (s : State) (off : Offset) (rest : List Input),
    s.cfg.wellFormed = true → s.inputs = .cycle (.rd off) :: rest →
      ∃ t, step { s with inputs := .cycle .none :: rest } = .next t ∧
        step s = .next { t with reads := t.reads ++ [{ off := off, value := s.regRead off }] }

/-- R54: what a write to each offset other than CMD does, with a command running or not: it stores, or does nothing, and
the cycle does to everything else what it does without the write. -/
def Obligations.RegisterWritesStoreAndNothingElse : Prop :=
  ∀ (s : State) (off : Offset) (v : Byte) (rest : List Input),
    s.cfg.wellFormed = true → s.inputs = .cycle (.wr off v) :: rest →
      ∃ t, step { s with inputs := .cycle .none :: rest } = .next t ∧
        (off = 1 → step s = .next { t with saddr := v.extractLsb' 0 7 }) ∧
        (off = 2 → step s = .next { t with regsel := v }) ∧
        (off = 3 → step s = .next { t with wdata := v }) ∧
        (4 ≤ off.toNat → step s = .next t)

/-- R161, R78: a command write that is not accepted has no effect at all in its clock cycle. The last clause, a command
executed whole on a busy block, where the sequencer does not advance either, is the MODEL'S CHOICE (log 3). -/
def Obligations.IgnoredCommandWritesHaveNoEffect : Prop :=
  (∀ v : Byte, Cmd.ofCode v = none ↔ v.toNat = 0 ∨ 6 ≤ v.toNat) ∧
  (∀ (s : State) (v : Byte) (rest : List Input),
    s.cfg.wellFormed = true → s.busy = true ∨ Cmd.ofCode v = none → s.inputs = .cycle (.wr 0 v) :: rest →
      step s = step { s with inputs := .cycle .none :: rest }) ∧
  (∀ (s : State) (c : Cmd), s.busy = true → exec c.instr s = .next s)

/-- R160: an accepted command write latches the operands, sets `busy`, marks the trace and puts `seq` at the procedure, and
does nothing else in its cycle. -/
def Obligations.AcceptedCommandWriteLatchesOperands : Prop :=
  ∀ (s : State) (c : Cmd) (rest : List Input),
    s.cfg.wellFormed = true → s.busy = false → s.inputs = .cycle (.wr 0 c.code) :: rest →
      step s = .next
        { s with
          opL := c.code, saddrL := s.saddr, regL := s.regsel, dataL := s.wdata, busy := true,
          trace := s.trace ++ [.cmd c.code], seq := .at (procedureOf s.cfg c),
          inputs := rest, resetHeld := false }

/-- R26: in a clock cycle without reset, the latches change only where a command is accepted. -/
def Obligations.LatchesChangeOnlyAtAcceptance : Prop :=
  ∀ (s t : State) (a : Access) (rest : List Input),
    s.inputs = .cycle a :: rest → step s = .next t →
    ¬(t.opL = s.opL ∧ t.saddrL = s.saddrL ∧ t.regL = s.regL ∧ t.dataL = s.dataL) →
      s.busy = false ∧ t.busy = true ∧ ∃ c : Cmd, a = .wr 0 c.code

/-- R26, R238: what the host writes to ADDR, REGSEL and WDATA while a command runs does not reach the command: over any
number of cycles, a run from other operand values differs in those registers only. -/
def Obligations.OperandRegistersDoNotReachARunningCommand : Prop :=
  ∀ (n : Nat) (s t : State) (a : SlaveAddr) (r d : Byte),
    s.busy = true → s.inputs = [] → runSteps n s = .next t →
      runSteps n { s with saddr := a, regsel := r, wdata := d } =
        .next { t with saddr := a, regsel := r, wdata := d }

/-- R30, R236: in a clock cycle without reset, RESULT changes only where a running command completes. -/
def Obligations.ResultChangesOnlyAtCompletion : Prop :=
  ∀ (s t : State) (a : Access) (rest : List Input),
    s.inputs = .cycle a :: rest → step s = .next t → t.result ≠ s.result →
      s.busy = true ∧ t.busy = false ∧ t.seq = .idle ∧ ∃ v, t.trace = s.trace ++ [.done (some v)] ∧ t.result = v

/-- R82: `wait` is a read of STATUS every cycle, over with the first whose value has bit 0 clear. -/
def Obligations.WaitReadsStatusUntilNotBusy : Prop :=
  ∀ (s : State) (rest : List Input), s.inputs = .wait :: rest →
    step s = step { s with inputs := .cycle (.rd 4) :: (if s.busy then .wait :: rest else rest) }

-- 5. Lines and uops.

/-- R22, R100, R108: the line levels are wired-AND, and the multiplexer sets the two pins from the drivers with level 0 and
touches no other pin. -/
def Obligations.PinsFollowTheDriversAndNeverDriveHigh : Prop :=
  ∀ s : State, s.cfg.wellFormed = true →
    s.gpio s.cfg.sclPin = some { dir := if s.sclOe then .output else .input, level := false } ∧
    s.gpio s.cfg.sdaPin = some { dir := if s.sdaOe then .output else .input, level := false } ∧
    (∀ p, p ≠ s.cfg.sclPin → p ≠ s.cfg.sdaPin → s.gpio p = none) ∧
    (∀ e, s.sclLevel e = (!s.sclOe && e)) ∧ (∀ e, s.sdaLevel e = (!s.sdaOe && e))

/-- R101 to R104: each line uop sets its one driver bit, records its event, and changes nothing else; a released line shows
the environment's level, with no wait for it, and a driven one 0. -/
def Obligations.LineUopsSetTheirDriverOnly : Prop :=
  encode .relScl = .uop 0x10 ∧ encode .drvScl = .uop 0x11 ∧ encode .relSda = .uop 0x12 ∧ encode .drvSda = .uop 0x13 ∧
  ∀ s : State,
    exec .relScl s = .next { s with sclOe := false, trace := s.trace ++ [.relScl] } ∧
    exec .drvScl s = .next { s with sclOe := true, trace := s.trace ++ [.drvScl] } ∧
    exec .relSda s = .next { s with sdaOe := false, trace := s.trace ++ [.relSda] } ∧
    exec .drvSda s = .next { s with sdaOe := true, trace := s.trace ++ [.drvSda] } ∧
    (∀ t e, exec .relScl s = .next t → t.sclLevel e = e) ∧
    (∀ t e, exec .drvScl s = .next t → t.sclLevel e = false) ∧
    (∀ t e, exec .relSda s = .next t → t.sdaLevel e = e) ∧
    (∀ t e, exec .drvSda s = .next t → t.sdaLevel e = false)

/-- R105, R106: SAMPLE_SDA returns 0 without a draw while the BBM drives SDA, and else one draw; it records the bit and
changes no line and no flag. -/
def Obligations.SampleReturnsTheLevelOfSda : Prop :=
  ∀ s : State,
    (s.sdaOe = true → exec .sampleSda s = .next { s with trace := s.trace ++ [.sample false] } ∧ s.sampledBit = false) ∧
    (s.sdaOe = false → exec .sampleSda s = .next
      { s with draws := s.draws.drop 1, drawn := s.drawn + 1, trace := s.trace ++ [.sample (s.nextDraw 0)] } ∧
      s.sampledBit = s.nextDraw 0)

/-- R107: DELAY leaves DCNT at 0, records its event, and changes nothing else, whatever DELAY_CYCLES is. -/
def Obligations.DelayChangesNothingButItsEvent : Prop :=
  ∀ s : State, exec .delay s = .next { s with dcnt := 0, trace := s.trace ++ [.delay] }

/-- R107, R241: in the sequencer a DELAY takes exactly DELAY_CYCLES cycles, and DCNT is not 0 between its cycles. That the
register transfers and branches after it (`settle`) fall in its last cycle is the MODEL'S CHOICE (log 6, DEDUCED). -/
def Obligations.DelayTakesDelayCyclesCycles : Prop :=
  ∀ (s : State) (ws : List Work),
    s.cfg.wellFormed = true → s.busy = true → s.inputs = [] → s.resetHeld = false → s.dcnt = 0 →
    s.seq = .at (.micro (.uop .delay) :: ws) →
      (∀ j, 0 < j → j < s.cfg.delayCycles →
        runSteps j s = .next { s with dcnt := s.cfg.delayCycles - j }) ∧
      runSteps s.cfg.delayCycles s = .next (settle ws { s with trace := s.trace ++ [.delay] })

-- 6. Framing and bits.

/-- R120: START, its entry from both lines driven, and, cycle by cycle, `framing` becoming ACTIVE at its DRV_SDA. -/
def Obligations.StartIssuesAStartCondition : Prop :=
  encode .start = .prim 0x1000 ∧
  (∀ s : State,
    exec .start s = .next
      { s with sclOe := true, sdaOe := true, framing := .active, dcnt := 0, trace := s.trace ++ startEvents }) ∧
  (∀ n, conditionsFrom n { sclOe := true, sdaOe := true } startEvents = [.stop, .start]) ∧
  (∀ (s : State) (ws : List Work),
    s.cfg.wellFormed = true → s.busy = true → s.inputs = [] → s.resetHeld = false →
    s.seq = .at (micros (startMicros.drop 3) ++ ws) →
      step s = .next
        { s with sdaOe := true, framing := .active, trace := s.trace ++ [.drvSda],
                 seq := .at (micros (startMicros.drop 5) ++ ws) })

/-- R122: STOP, its entry from both lines released, and, cycle by cycle, `framing` becoming IDLE at its REL_SDA. -/
def Obligations.StopIssuesAStopCondition : Prop :=
  encode .stop = .prim 0x2000 ∧
  (∀ s : State,
    exec .stop s = .next
      { s with sclOe := false, sdaOe := false, framing := .idle, dcnt := 0, trace := s.trace ++ stopEvents }) ∧
  (∀ n, conditionsFrom n Lines.released stopEvents = [.start, .stop]) ∧
  (∀ (s : State) (ws : List Work),
    s.cfg.wellFormed = true → s.busy = true → s.inputs = [] → s.resetHeld = false →
    s.seq = .at (micros (stopMicros.drop 4) ++ ws) →
      step s = .next
        { s with sdaOe := false, framing := .idle, trace := s.trace ++ [.relSda],
                 seq := .at (micros (stopMicros.drop 6) ++ ws) })

/-- R125: START followed at once by STOP, from both lines released, leaves the bus idle, with one start and one stop condition. -/
def Obligations.StartThenStopLeavesTheBusIdle : Prop :=
  ∀ (s : State) (n : Nat), s.lines = Lines.released →
    ∃ t u, exec .start s = .next t ∧ exec .stop t = .next u ∧ u.lines = Lines.released ∧ u.framing = .idle ∧
      u.trace = s.trace ++ (startEvents ++ stopEvents) ∧
      conditionsFrom n s.lines (startEvents ++ stopEvents) = [.start, .stop]

/-- R121, R124: the conditions START and STOP create from each entry state the procedures have. -/
def Obligations.EntryStatesOfStartAndStop : Prop :=
  ∀ n : Nat,
    conditionsFrom n { sclOe := false, sdaOe := false } startEvents = [.start] ∧
    conditionsFrom n { sclOe := true, sdaOe := false } startEvents = [.start] ∧
    (∀ d, conditionsFrom n { sclOe := true, sdaOe := d } stopEvents = [.stop])

/-- R130: WRITE_BIT. -/
def Obligations.WriteBitClocksOneBitOut : Prop :=
  ∀ (s : State) (v : Bool),
    encode (.writeBit v) = .prim (if v then 0x3100 else 0x3000) ∧
    exec (.writeBit v) s = .next
      { s with sclOe := true, sdaOe := !v, dcnt := 0, trace := s.trace ++ writeBitEvents v }

/-- R131: READ_BIT, and the bit it returns. -/
def Obligations.ReadBitClocksOneBitIn : Prop :=
  encode .readBit = .prim 0x4000 ∧
  ∀ s : State,
    (callReadBit s).1 = s.nextDraw 0 ∧
    exec .readBit s = .next
      { s with sclOe := true, sdaOe := false, dcnt := 0, draws := s.draws.drop 1, drawn := s.drawn + 1,
               trace := s.trace ++ readBitEvents (s.nextDraw 0) }

/-- R132: with SCL driven at the start, both bit primitives begin with their one SDA uop, and neither creates a condition. -/
def Obligations.BitPrimitivesCreateNoCondition : Prop :=
  ∀ (s : State) (n : Nat), s.sclOe = true →
    (∀ v, ∃ t ev, exec (.writeBit v) s = .next t ∧
      t.trace = s.trace ++ ((if v then Event.relSda else .drvSda) :: ev) ∧
      .relSda ∉ ev ∧ .drvSda ∉ ev ∧
      conditionsFrom n s.lines ((if v then Event.relSda else .drvSda) :: ev) = []) ∧
    (∃ t ev, exec .readBit s = .next t ∧ t.trace = s.trace ++ (.relSda :: ev) ∧
      .relSda ∉ ev ∧ .drvSda ∉ ev ∧ conditionsFrom n s.lines (.relSda :: ev) = [])

-- 7. Bytes.

/-- R140: the four operations of the shift register; eight ShiftOut from Load(x) give x most significant bit first and leave
0x00; Clear and eight ShiftIn give the first bit received at SR[7]. -/
def Obligations.ShiftRegisterIsMostSignificantFirst : Prop :=
  (∀ (s : State) (x : Byte) (b : Bool),
    (s.loadByte x).sr = x ∧ s.outBit = s.sr.getLsbD 7 ∧ s.shiftOut.sr = s.sr <<< 1 ∧ s.clearByte.sr = 0x00 ∧
    (s.shiftIn b).sr = s.sr.extractLsb' 0 7 ++ BitVec.ofBool b ∧
    (s.loadByte x).trace = s.trace ∧ s.shiftOut.trace = s.trace ∧ s.clearByte.trace = s.trace ∧
    (s.shiftIn b).trace = s.trace) ∧
  (∀ (s : State) (x : Byte),
    (List.range 8).map (fun k => ((State.shiftOut)^[k] (s.loadByte x)).outBit) = byteBits x ∧
    ((State.shiftOut)^[8] (s.loadByte x)).sr = 0x00) ∧
  (∀ (s : State) (bs : List Bool), bs.length = 8 →
    byteBits ((bs.foldl (fun t b => t.shiftIn b) s.clearByte).sr) = bs)

/-- R143: WRITE_BYTE, with every flag, whatever the ninth sample is: it acknowledges where the sample is 0. -/
def Obligations.WriteByteSendsEightBitsAndSamplesTheNinth : Prop :=
  ∀ (s : State) (x : Byte) (startFlag stopFlag : Bool),
    encode (.writeByte x startFlag stopFlag) = .prim
      (0x5000 ||| ((if startFlag then 0x0200 else 0) ||| ((if stopFlag then 0x0100 else 0) ||| x.zeroExtend 16))) ∧
    (∃ t, exec (.writeByte x startFlag stopFlag) s = .next t ∧ t.acked = !s.nextDraw 0 ∧ t =
      { s with
        sclOe := !stopFlag, sdaOe := false,
        framing := if stopFlag then .idle else if startFlag then .active else s.framing,
        sr := 0x00, bitcnt := 8, ackb := s.nextDraw 0, dcnt := 0,
        draws := s.draws.drop 1, drawn := s.drawn + 1,
        trace := s.trace ++ writeByteEvents x startFlag stopFlag (s.nextDraw 0) }) ∧
    (writeByteEvents x startFlag stopFlag (s.nextDraw 0)).length =
      54 + (if startFlag then 7 else 0) + (if stopFlag then 6 else 0)

/-- R144, R145: READ_BYTE, with every flag; `SR` is its result and ACKB is not written. -/
def Obligations.ReadByteReceivesEightBitsAndSendsTheNinth : Prop :=
  ∀ (s : State) (sendAckFlag stopFlag : Bool),
    encode (.readByte sendAckFlag stopFlag) = .prim
      (0x6000 ||| ((if sendAckFlag then 0x0200 else 0) ||| (if stopFlag then 0x0100 else 0))) ∧
    exec (.readByte sendAckFlag stopFlag) s = .next
      { s with
        sclOe := !stopFlag, sdaOe := if stopFlag then false else sendAckFlag,
        framing := if stopFlag then .idle else s.framing,
        sr := bitsByte (s.nextDraws 0 8), bitcnt := 8, dcnt := 0,
        draws := s.draws.drop 8, drawn := s.drawn + 8,
        trace := s.trace ++ readByteEvents (s.nextDraws 0 8) sendAckFlag stopFlag } ∧
    (readByteEvents (s.nextDraws 0 8) sendAckFlag stopFlag).length = 54 + (if stopFlag then 6 else 0)

/-- R146: the round-trip law: WRITE_BYTE v shows v's bits most significant first on the wire, and READ_BYTE returns v
exactly when its eight samples are those bits. -/
def Obligations.ByteTransfersRoundTrip : Prop :=
  (∀ (s : State) (v : Byte) (n : Nat), s.sclOe = true →
    ∃ t ev, exec (.writeByte v false false) s = .next t ∧ t.trace = s.trace ++ ev ∧
      wireFrom n s.lines none ev = byteSyms v t.ackb) ∧
  (∀ (s : State) (v : Byte) (a p : Bool),
    ∃ t, exec (.readByte a p) s = .next t ∧ (t.sr = v ↔ s.nextDraws 0 8 = byteBits v))

/-- R147: the flags reach neither WRITE_BYTE's ACK nor READ_BYTE's byte; they change only the trace, the framing and the drivers. -/
def Obligations.FlagsDoNotReachTheResult : Prop :=
  (∀ (s : State) (x : Byte) (f g f' g' : Bool),
    ∃ t t', exec (.writeByte x f g) s = .next t ∧ exec (.writeByte x f' g') s = .next t' ∧
      t' = { t with trace := t'.trace, framing := t'.framing, sclOe := t'.sclOe, sdaOe := t'.sdaOe }) ∧
  (∀ (s : State) (f g f' g' : Bool),
    ∃ t t', exec (.readByte f g) s = .next t ∧ exec (.readByte f' g') s = .next t' ∧
      t' = { t with trace := t'.trace, framing := t'.framing, sclOe := t'.sclOe, sdaOe := t'.sdaOe })

-- 8. Commands. Each is stated with no command running; while one runs, IgnoredCommandWritesHaveNoEffect covers all five.

/-- R76: the address byte is `a` in bits 7:1 and the direction in bit 0. -/
def Obligations.AddressByteIsAddressThenDirection : Prop :=
  ∀ (a : SlaveAddr) (rw : Bool),
    addrByte a rw = a ++ BitVec.ofBool rw ∧ (addrByte a false).getLsbD 0 = false ∧
    addrByte a true = addrByte a false + 1

/-- R164: INIT, and the conditions it makes from each entry state. -/
def Obligations.InitReleasesBothLines : Prop :=
  encode .init = .cmd 0x01 ∧
  (∀ s : State, s.busy = false →
    exec .init s = .next
      { s with
        opL := 0x01, saddrL := s.saddr, regL := s.regsel, dataL := s.wdata, busy := false, seq := .idle,
        sclOe := false, sdaOe := false, framing := .idle, dcnt := 0,
        trace := s.trace ++ [.cmd 0x01, .relScl, .relSda, .delay, .done none] }) ∧
  (∀ n,
    conditionsFrom n Lines.released [.relScl, .relSda, .delay] = [] ∧
    conditionsFrom n { sclOe := true, sdaOe := false } [.relScl, .relSda, .delay] = [] ∧
    conditionsFrom n { sclOe := true, sdaOe := true } [.relScl, .relSda, .delay] = [.stop])

/-- R165: SEND_BYTE on each path. -/
def Obligations.SendByteWritesOneByte : Prop :=
  ∀ s : State, s.busy = false →
    (s.nextDraw 0 = true → exec .sendByte s = .next
      (commandEnd s .sendByte Lines.released .idle 0x00 true 1 0x00
        (writeByteEvents (addrByte s.saddr false) true false true ++ stopEvents))) ∧
    (s.nextDraw 0 = false → exec .sendByte s = .next
      (commandEnd s .sendByte Lines.released .idle 0x00 (s.nextDraw 1) 2
        (if s.nextDraw 1 then 0x00 else 0x01)
        (writeByteEvents (addrByte s.saddr false) true false false ++
          writeByteEvents s.wdata false true (s.nextDraw 1))))

/-- R167, R10: RECEIVE_BYTE on each path, with both values of RB_NAK_STOP. -/
def Obligations.ReceiveByteReadsOneByte : Prop :=
  ∀ s : State, s.busy = false →
    (s.nextDraw 0 = true → s.cfg.rbNakStop = true → exec .receiveByte s = .next
      (commandEnd s .receiveByte Lines.released .idle 0x00 true 1 0x00
        (writeByteEvents (addrByte s.saddr true) true false true ++ stopEvents))) ∧
    (s.nextDraw 0 = true → s.cfg.rbNakStop = false → exec .receiveByte s = .next
      (commandEnd s .receiveByte { sclOe := true, sdaOe := false } .active 0x00 true 1 0x00
        (writeByteEvents (addrByte s.saddr true) true false true))) ∧
    (s.nextDraw 0 = false → exec .receiveByte s = .next
      (commandEnd s .receiveByte Lines.released .idle (bitsByte (s.nextDraws 1 8)) false 9
        (bitsByte (s.nextDraws 1 8))
        (writeByteEvents (addrByte s.saddr true) true false false ++ readByteEvents (s.nextDraws 1 8) false true)))

/-- R168: SEND_BYTE_DATA on each path. -/
def Obligations.SendByteDataWritesRegisterAndByte : Prop :=
  ∀ s : State, s.busy = false →
    (s.nextDraw 0 = true → exec .sendByteData s = .next
      (commandEnd s .sendByteData Lines.released .idle 0x00 true 1 0x00
        (writeByteEvents (addrByte s.saddr false) true false true ++ stopEvents))) ∧
    (s.nextDraw 0 = false → s.nextDraw 1 = true → exec .sendByteData s = .next
      (commandEnd s .sendByteData Lines.released .idle 0x00 true 2 0x00
        (writeByteEvents (addrByte s.saddr false) true false false ++
          writeByteEvents s.regsel false false true ++ stopEvents))) ∧
    (s.nextDraw 0 = false → s.nextDraw 1 = false → exec .sendByteData s = .next
      (commandEnd s .sendByteData Lines.released .idle 0x00 (s.nextDraw 2) 3
        (if s.nextDraw 2 then 0x00 else 0x01)
        (writeByteEvents (addrByte s.saddr false) true false false ++
          writeByteEvents s.regsel false false false ++ writeByteEvents s.wdata false true (s.nextDraw 2))))

/-- R169: RECEIVE_BYTE_DATA on each path; there is no STOP before the second START. -/
def Obligations.ReceiveByteDataReadsAfterARepeatedStart : Prop :=
  ∀ s : State, s.busy = false →
    (s.nextDraw 0 = true → exec .receiveByteData s = .next
      (commandEnd s .receiveByteData Lines.released .idle 0x00 true 1 0x00
        (writeByteEvents (addrByte s.saddr false) true false true ++ stopEvents))) ∧
    (s.nextDraw 0 = false → s.nextDraw 1 = true → exec .receiveByteData s = .next
      (commandEnd s .receiveByteData Lines.released .idle 0x00 true 2 0x00
        (writeByteEvents (addrByte s.saddr false) true false false ++
          writeByteEvents s.regsel false false true ++ stopEvents))) ∧
    (s.nextDraw 0 = false → s.nextDraw 1 = false → s.nextDraw 2 = true → exec .receiveByteData s = .next
      (commandEnd s .receiveByteData Lines.released .idle 0x00 true 3 0x00
        (writeByteEvents (addrByte s.saddr false) true false false ++
          writeByteEvents s.regsel false false false ++
          writeByteEvents (addrByte s.saddr true) true false true ++ stopEvents))) ∧
    (s.nextDraw 0 = false → s.nextDraw 1 = false → s.nextDraw 2 = false → exec .receiveByteData s = .next
      (commandEnd s .receiveByteData Lines.released .idle (bitsByte (s.nextDraws 3 8)) false 11
        (bitsByte (s.nextDraws 3 8))
        (writeByteEvents (addrByte s.saddr false) true false false ++
          writeByteEvents s.regsel false false false ++
          writeByteEvents (addrByte s.saddr true) true false false ++
          readByteEvents (s.nextDraws 3 8) false true)))

/-- R166: from the lines at rest, every path of a command that transfers bytes ends with a STOP, whose stop condition is the
only one; INIT creates none; RECEIVE_BYTE is taken with RB_NAK_STOP = 1. -/
def Obligations.ExactlyOneStopPerCommand : Prop :=
  ∀ (s : State) (c : Cmd) (n : Nat),
    s.busy = false → quietLines s.cfg.rbNakStop s.lines s.framing = true →
      ∃ t ev r, exec c.instr s = .next t ∧ t.trace = s.trace ++ ([.cmd c.code] ++ ev ++ [.done r]) ∧
        (c = .init → conditionsFrom n s.lines ev = []) ∧
        (c ≠ .init → (c = .receiveByte → s.cfg.rbNakStop = true) →
          (∃ before, ev = before ++ stopEvents) ∧
          (conditionsFrom n s.lines ev).count .stop = 1 ∧ (conditionsFrom n s.lines ev).getLast? = some .stop ∧
          t.lines = Lines.released ∧ t.framing = .idle)

/-- R171: if the address byte is not acknowledged, nine bits are all that the command puts on the wire, it takes one draw,
and its result is 0x00. -/
def Obligations.NoTransferAfterAnAddressNak : Prop :=
  ∀ (s : State) (c : Cmd) (n : Nat),
    s.busy = false → quietLines s.cfg.rbNakStop s.lines s.framing = true → c ≠ .init → s.nextDraw 0 = true →
      ∃ t ev, exec c.instr s = .next t ∧
        t.trace = s.trace ++ ([.cmd c.code] ++ ev ++ [.done (some 0x00)]) ∧
        wireFrom n s.lines none ev =
          [.cond .start] ++ byteSyms (addrByte s.saddr (decide (c = .receiveByte))) true ++
            (if c = .receiveByte ∧ s.cfg.rbNakStop = false then [] else [.cond .stop]) ∧
        t.drawn = s.drawn + 1 ∧ t.result = 0x00

/-- R174: the wire sequence of each command on its all-ACK path, from the lines at rest. -/
def Obligations.WireSequenceWhenAllAcknowledged : Prop :=
  ∀ (s : State) (n : Nat),
    s.busy = false → quietLines s.cfg.rbNakStop s.lines s.framing = true →
    (∃ t ev r, exec .init s = .next t ∧ t.trace = s.trace ++ ([.cmd 0x01] ++ ev ++ [.done r]) ∧
      wireFrom n s.lines none ev = []) ∧
    (s.nextDraws 0 2 = [false, false] →
      ∃ t ev r, exec .sendByte s = .next t ∧ t.trace = s.trace ++ ([.cmd 0x02] ++ ev ++ [.done r]) ∧
        wireFrom n s.lines none ev =
          [.cond .start] ++ byteSyms (addrByte s.saddr false) false ++ byteSyms s.wdata false ++ [.cond .stop]) ∧
    (s.nextDraw 0 = false →
      ∃ t ev r, exec .receiveByte s = .next t ∧ t.trace = s.trace ++ ([.cmd 0x03] ++ ev ++ [.done r]) ∧
        wireFrom n s.lines none ev =
          [.cond .start] ++ byteSyms (addrByte s.saddr true) false ++ byteSyms t.result true ++ [.cond .stop]) ∧
    (s.nextDraws 0 3 = [false, false, false] →
      ∃ t ev r, exec .sendByteData s = .next t ∧ t.trace = s.trace ++ ([.cmd 0x04] ++ ev ++ [.done r]) ∧
        wireFrom n s.lines none ev =
          [.cond .start] ++ byteSyms (addrByte s.saddr false) false ++ byteSyms s.regsel false ++
            byteSyms s.wdata false ++ [.cond .stop]) ∧
    (s.nextDraws 0 3 = [false, false, false] →
      ∃ t ev r, exec .receiveByteData s = .next t ∧ t.trace = s.trace ++ ([.cmd 0x05] ++ ev ++ [.done r]) ∧
        wireFrom n s.lines none ev =
          [.cond .start] ++ byteSyms (addrByte s.saddr false) false ++ byteSyms s.regsel false ++
            [.cond .start] ++ byteSyms (addrByte s.saddr true) false ++ byteSyms t.result true ++ [.cond .stop])

/-- R170: the read-style failure value is ambiguous: an address NAK and a byte 0x00 leave the same RESULT and STATUS, and
the same reads of every offset. -/
def Obligations.ReadFailureLooksLikeAZeroByte : Prop :=
  ∀ s : State, s.busy = false → s.cfg.rbNakStop = true → s.nextDraw 0 = true →
    ∀ z : State, z = { s with draws := List.replicate 9 false } →
      ∃ t u, exec .receiveByte s = .next t ∧ exec .receiveByte z = .next u ∧
        t.ackb = true ∧ u.ackb = false ∧ t.result = 0x00 ∧ ∀ off, t.regRead off = u.regRead off

/-- R243: on every path each command performs exactly the uops and the DELAYs of the table, whose cycles with the one of
the completion are the table's busy cycles. -/
def Obligations.EveryPathHasItsUopAndDelayCounts : Prop :=
  ∀ (s : State) (c : Cmd), s.busy = false →
    ∃ t ev r, exec c.instr s = .next t ∧ t.trace = s.trace ++ ([.cmd c.code] ++ ev ++ [.done r]) ∧
      (ev.length, ev.countP Event.isDelay) =
        (match c with
        | .init => (3, 1)
        | .sendByte => if s.nextDraw 0 then (67, 32) else (121, 58)
        | .receiveByte =>
          if s.nextDraw 0 then (if s.cfg.rbNakStop then (67, 32) else (61, 29)) else (121, 51)
        | .sendByteData => if s.nextDraw 0 then (67, 32) else if s.nextDraw 1 then (121, 58) else (175, 84)
        | .receiveByteData =>
          if s.nextDraw 0 then (67, 32) else if s.nextDraw 1 then (121, 58)
          else if s.nextDraw 2 then (182, 87) else (236, 106)) ∧
      ∀ d, cyclesOf d ev + 1 =
        ev.length - ev.countP Event.isDelay + 1 + ev.countP Event.isDelay * d

/-- R235: with RB_NAK_STOP = 0 an address NAK of RECEIVE_BYTE leaves the bus inside a transaction; INIT from there releases
both lines without a condition, and every other command begins with a start condition and no stop before it. -/
def Obligations.OpenTransactionAfterReceiveByteNak : Prop :=
  ∀ (s : State) (n : Nat),
    s.busy = false → s.cfg.rbNakStop = false → quietLines false s.lines s.framing = true → s.nextDraw 0 = true →
      ∃ t ev r, exec .receiveByte s = .next t ∧ t.trace = s.trace ++ ([.cmd 0x03] ++ ev ++ [.done r]) ∧
        conditionsFrom n s.lines ev = [.start] ∧ t.status = 0x02 ∧ t.lines = { sclOe := true, sdaOe := false } ∧
        (∃ u ev' r', exec .init t = .next u ∧ u.trace = t.trace ++ ([.cmd 0x01] ++ ev' ++ [.done r']) ∧
          conditionsFrom n t.lines ev' = [] ∧ u.lines = Lines.released ∧ u.framing = .idle) ∧
        (∀ c : Cmd, c ≠ .init → ∃ u ev' r', exec c.instr t = .next u ∧
          u.trace = t.trace ++ ([.cmd c.code] ++ ev' ++ [.done r']) ∧
          (conditionsFrom n t.lines ev').head? = some .start)

-- 9. Whole machine.

/-- R31, R57: no instruction writes the operand registers, the parameters, the script or what the host has read. -/
def Obligations.InstructionsKeepTheHostsRegisters : Prop :=
  ∀ (i : Instr) (s : State), ∃ t, exec i s = .next t ∧
    t.saddr = s.saddr ∧ t.regsel = s.regsel ∧ t.wdata = s.wdata ∧ t.cfg = s.cfg ∧
    t.inputs = s.inputs ∧ t.reads = s.reads ∧ t.resetHeld = s.resetHeld

/-- R24: the trace records every event in order: a step only adds to it. -/
def Obligations.TraceOnlyGrows : Prop :=
  ∀ s t : State, step s = .next t → ∃ ev, t.trace = s.trace ++ ev

/-- R200: a step of a BBM driven by its host always goes on: it neither faults nor is refused. -/
def Obligations.HostDrivenBlockNeverStops : Prop :=
  ∀ s : State, s.cfg.wellFormed = true → s.inputs.all hostEntry = true → ∃ t, step s = .next t

/-- R241, R243, R65: from its acceptance, with the host idle, the sequencer reaches exactly the state the command's meaning
gives, after as many cycles as its uops take and one more for the completion, and is busy until then. -/
def Obligations.SequencerRunsEachCommandToItsMeaning : Prop :=
  ∀ (s : State) (c : Cmd),
    s.cfg.wellFormed = true → s.busy = false → s.dcnt = 0 → s.inputs = [] → s.resetHeld = false →
      ∃ t ev r, exec c.instr s = .next t ∧ t.trace = s.trace ++ ([.cmd c.code] ++ ev ++ [.done r]) ∧
        runSteps (cyclesOf s.cfg.delayCycles ev + 1) (accept c s) = .next t ∧
        ∀ j ≤ cyclesOf s.cfg.delayCycles ev, ∃ u, runSteps j (accept c s) = .next u ∧ u.busy = true

/-- R245, R172: every command finishes within 131 + 106 × DELAY_CYCLES cycles of its acceptance, whatever the host does on
its port in those cycles and whatever the bus does, and with at most 236 uops, of which at most 106 are DELAYs. -/
def Obligations.EveryCommandFinishesInBoundedTime : Prop :=
  (∀ (s : State) (c : Cmd) (accesses : List Access),
    s.cfg.wellFormed = true → s.busy = false → s.dcnt = 0 →
    accesses.length = 131 + 106 * s.cfg.delayCycles → s.inputs = accesses.map Input.cycle →
      ∃ k t, k ≤ 131 + 106 * s.cfg.delayCycles ∧ runSteps k (accept c s) = .next t ∧ t.busy = false) ∧
  (∀ (s : State) (c : Cmd), s.busy = false →
    ∃ t ev r, exec c.instr s = .next t ∧ t.trace = s.trace ++ ([.cmd c.code] ++ ev ++ [.done r]) ∧
      ev.length ≤ 236 ∧ ev.countP Event.isDelay ≤ 106)

/-- R239, R112: in a block driven by its host, a cycle without reset changes SDA with SCL released only to make a start
condition, which leaves `framing` ACTIVE, or a stop condition, which leaves it IDLE. -/
def Obligations.SdaChangesWithSclReleasedOnlyAsConditions : Prop :=
  ∀ (s t : State),
    s.inv = true → (s.inputs = [] ∨ (∃ rest, s.inputs = .wait :: rest) ∨ ∃ a rest, s.inputs = .cycle a :: rest) →
    step s = .next t → s.sclOe = false → t.sdaOe ≠ s.sdaOe →
      t.sclOe = false ∧ (t.sdaOe = true → t.framing = .active) ∧ (t.sdaOe = false → t.framing = .idle)

/-- R41, R25, R28, R38: the invariant of a block driven by its host holds at reset. -/
def Obligations.ResetSatisfiesTheBlockInvariant : Prop := State.reset.inv = true

/-- R41, R25, R28, R38, R239: every step keeps the invariant of a block driven by its host. -/
def Obligations.EveryStepKeepsTheBlockInvariant : Prop :=
  ∀ s t : State, s.inv = true → step s = .next t → t.inv = true

/-- R41: with RB_NAK_STOP = 1 and no command running, a block driven by its host has both lines released and `framing` IDLE. -/
def Obligations.RestingBlockHasReleasedTheBus : Prop :=
  ∀ s : State, s.inv = true → s.busy = false →
    (s.framing = .idle → s.lines = Lines.released) ∧
    (s.framing = .active → s.lines = { sclOe := true, sdaOe := false } ∧ s.cfg.rbNakStop = false) ∧
    (s.cfg.rbNakStop = true → s.framing = .idle)
end

