-- ==== Sys2Proof/Laws/State.lean ====
section
/-! SUPPORT. Laws of the updates of State. The one lemma per field per update, true by rfl and tagged simp, is made where
each update is defined, by its `simps` attribute (Machine/Ops.lean, Machine/Flags.lean): `State.emit_trace`,
`State.emit_busy`, `State.setScl_sclOe`, … Here: how the updates meet the draws still to come. -/

namespace Sys2Proof.Machine

open Sys2Proof

/-- Setting the script to what it is changes nothing. -/
theorem State.setInputs_eq_self {s : State} {l : List Input} (h : s.inputs = l) : s.setInputs l = s := by subst h; rfl

/-- Setting the level of `rst` to what it is changes nothing. -/
theorem State.setResetHeld_eq_self {s : State} {v : Bool} (h : s.resetHeld = v) : s.setResetHeld v = s := by subst h; rfl

/-- Setting DCNT to what it is changes nothing. -/
theorem State.setDcnt_eq_self {s : State} {n : Nat} (h : s.dcnt = n) : s.setDcnt n = s := by subst h; rfl

/-- After `j` draws, the draws to come are those `j` further on (R106). -/
theorem drawAt_drop (draws : List Bool) (drawn j k : Nat) :
    drawAt (draws.drop j) (drawn + j) k = drawAt draws drawn (j + k) := by
  simp only [drawAt, List.getElem?_drop, Nat.add_assoc]

/-- After one draw, the draws to come are those one further on (R106). -/
theorem drawAt_tail (draws : List Bool) (drawn k : Nat) :
    drawAt draws.tail (drawn + 1) k = drawAt draws drawn (1 + k) := by
  rw [← List.drop_one, drawAt_drop]

/-- Taking a draw moves on to the next one (R106). -/
@[simp] theorem State.nextDraw_takeDraw (s : State) (k : Nat) : s.takeDraw.nextDraw k = s.nextDraw (k + 1) := by
  simp only [State.nextDraw, State.takeDraw, drawAt_tail, Nat.add_comm]

/-- Only the levels to come and the number of draws taken decide the draws to come. -/
theorem State.nextDraw_congr {s t : State} (hd : t.draws = s.draws) (hn : t.drawn = s.drawn) (k : Nat) :
    t.nextDraw k = s.nextDraw k := by
  simp only [State.nextDraw, hd, hn]

@[simp] theorem State.nextDraw_emit (e : Event) (s : State) (k : Nat) : (s.emit e).nextDraw k = s.nextDraw k := rfl
@[simp] theorem State.nextDraw_setScl (v : Bool) (s : State) (k : Nat) : (s.setScl v).nextDraw k = s.nextDraw k := rfl
@[simp] theorem State.nextDraw_setSda (v : Bool) (s : State) (k : Nat) : (s.setSda v).nextDraw k = s.nextDraw k := rfl
@[simp] theorem State.nextDraw_setFraming (f : Framing) (s : State) (k : Nat) : (s.setFraming f).nextDraw k = s.nextDraw k := rfl
@[simp] theorem State.nextDraw_setDcnt (n : Nat) (s : State) (k : Nat) : (s.setDcnt n).nextDraw k = s.nextDraw k := rfl
@[simp] theorem State.nextDraw_setSeq (q : Seq) (s : State) (k : Nat) : (s.setSeq q).nextDraw k = s.nextDraw k := rfl
@[simp] theorem State.nextDraw_setSaddr (a : SlaveAddr) (s : State) (k : Nat) : (s.setSaddr a).nextDraw k = s.nextDraw k := rfl
@[simp] theorem State.nextDraw_setRegsel (v : Byte) (s : State) (k : Nat) : (s.setRegsel v).nextDraw k = s.nextDraw k := rfl
@[simp] theorem State.nextDraw_setWdata (v : Byte) (s : State) (k : Nat) : (s.setWdata v).nextDraw k = s.nextDraw k := rfl
@[simp] theorem State.nextDraw_setInputs (l : List Input) (s : State) (k : Nat) : (s.setInputs l).nextDraw k = s.nextDraw k := rfl
@[simp] theorem State.nextDraw_setResetHeld (v : Bool) (s : State) (k : Nat) : (s.setResetHeld v).nextDraw k = s.nextDraw k := rfl
@[simp] theorem State.nextDraw_logRead (r : HostRead) (s : State) (k : Nat) : (s.logRead r).nextDraw k = s.nextDraw k := rfl
@[simp] theorem State.nextDraw_latch (op : Byte) (s : State) (k : Nat) : (s.latch op).nextDraw k = s.nextDraw k := rfl
@[simp] theorem State.nextDraw_finish (r : Option Byte) (s : State) (k : Nat) : (s.finish r).nextDraw k = s.nextDraw k := rfl
@[simp] theorem State.nextDraw_resetFields (s : State) (k : Nat) : s.resetFields.nextDraw k = s.nextDraw k := rfl
@[simp] theorem State.nextDraw_loadByte (x : Byte) (s : State) (k : Nat) : (s.loadByte x).nextDraw k = s.nextDraw k := rfl
@[simp] theorem State.nextDraw_clearByte (s : State) (k : Nat) : s.clearByte.nextDraw k = s.nextDraw k := rfl
@[simp] theorem State.nextDraw_shiftOut (s : State) (k : Nat) : s.shiftOut.nextDraw k = s.nextDraw k := rfl
@[simp] theorem State.nextDraw_shiftIn (b : Bool) (s : State) (k : Nat) : (s.shiftIn b).nextDraw k = s.nextDraw k := rfl
@[simp] theorem State.nextDraw_countBit (s : State) (k : Nat) : s.countBit.nextDraw k = s.nextDraw k := rfl
@[simp] theorem State.nextDraw_latchAck (b : Bool) (s : State) (k : Nat) : (s.latchAck b).nextDraw k = s.nextDraw k := rfl

/-- The draws after `j` more are the draws `j` further on. -/
theorem State.nextDraws_succ (s : State) (k n : Nat) :
    s.nextDraws k (n + 1) = s.nextDraw k :: s.nextDraws (k + 1) n := by
  have h : ∀ i, k + 1 + i = k + (i + 1) := by intro i; omega
  simp [State.nextDraws, List.range_succ_eq_map, Function.comp_def, h]

end Sys2Proof.Machine
end

