-- ==== Sys2Proof/Laws/Ops.lean ====
section
/-! SUPPORT. One law per shared operation, which proofs cite instead of unfolding it. -/

namespace Sys2Proof.Machine

open Sys2Proof

/-- Counting DCNT down from `n` leaves 0, or nothing changed where there was nothing to count (R107). -/
theorem State.countDown_eq (n : Nat) (s : State) :
    State.countDown n s = if n = 0 then s else s.setDcnt 0 := by
  induction n generalizing s with
  | zero => rfl
  | succ n ih =>
    simp only [State.countDown, ih]
    cases n <;> simp [State.setDcnt]

/-- DELAY to its end: DCNT is 0 and the event is recorded (R107). -/
@[simp] theorem State.delayUop_eq (s : State) : s.delayUop = (s.setDcnt 0).emit .delay := by
  simp only [State.delayUop, State.countDown_eq]
  by_cases h : s.cfg.delayCycles = 0 <;> simp [State.setDcnt, h]

/-- Every uop appends exactly one event (R24). -/
theorem doUop_trace (u : Uop) (s : State) : ∃ e, (doUop u s).trace = s.trace ++ [e] := by
  cases u <;> simp only [doUop, State.sampleSda, State.delayUop_eq]
  case sampleSda => split <;> simp
  all_goals simp

/-- What no uop touches: everything but the drivers, the trace, DCNT and the draws (R101 to R107). -/
theorem doUop_frame (u : Uop) (s : State) :
    doUop u s = { s with sclOe := (doUop u s).sclOe, sdaOe := (doUop u s).sdaOe, trace := (doUop u s).trace,
                         dcnt := (doUop u s).dcnt, draws := (doUop u s).draws, drawn := (doUop u s).drawn } := by
  cases u <;> simp only [doUop, State.sampleSda, State.delayUop_eq]
  case sampleSda => split <;> rfl
  all_goals rfl

/-- SAMPLE_SDA returns 0 with no draw taken while the BBM drives SDA (R105). -/
theorem State.sampleSda_driven {s : State} (h : s.sdaOe = true) :
    s.sampledBit = false ∧ s.sampleSda = s.emit (.sample false) := by
  simp [State.sampledBit, State.sampleSda, h]

/-- SAMPLE_SDA returns the next draw, and takes it, with SDA released (R105, R106). -/
theorem State.sampleSda_released {s : State} (h : s.sdaOe = false) :
    s.sampledBit = s.nextDraw 0 ∧ s.sampleSda = s.takeDraw.emit (.sample (s.nextDraw 0)) := by
  simp [State.sampledBit, State.sampleSda, State.sdaLevel, lineLevel, h]

@[simp] theorem runMicros_nil (s : State) : runMicros [] s = s := rfl

@[simp] theorem runMicros_cons (m : Micro) (ms : List Micro) (s : State) :
    runMicros (m :: ms) s = runMicros ms (doMicro m s) := rfl

/-- Micros in a row are performed in a row (R68). -/
theorem runMicros_append (ms ns : List Micro) (s : State) :
    runMicros (ms ++ ns) s = runMicros ns (runMicros ms s) := by
  simp [runMicros, List.foldl_append]

/-- A command on a busy block is ignored (R161); else it is accepted and run (R160). -/
theorem command_next (c : Cmd) (p : State → State) (s : State) :
    ∃ t, command c p s = .next t ∧ ((s.busy = true ∧ t = s) ∨ (s.busy = false ∧ t = p (accept c s))) := by
  cases h : s.busy <;> simp [command, h]

/-- What acceptance changes (R160). -/
theorem accept_eq (c : Cmd) (s : State) :
    accept c s = { s with opL := c.code, saddrL := s.saddr, regL := s.regsel, dataL := s.wdata, busy := true,
                          trace := s.trace ++ [.cmd c.code], seq := .at (procedureOf s.cfg c) } := rfl

/-- What settling to the next uop can change: `seq`, and what the register transfers write. -/
theorem settle_frame (ws : List Work) (s : State) :
    settle ws s = { s with seq := (settle ws s).seq, framing := (settle ws s).framing, sr := (settle ws s).sr,
                           bitcnt := (settle ws s).bitcnt, ackb := (settle ws s).ackb } := by
  induction ws generalizing s with
  | nil => rfl
  | cons w ws ih =>
    cases w with
    | micro m =>
      cases m with
      | uop u => rfl
      | framing f => exact (ih (s.setFraming f)).trans rfl
      | load src => exact (ih (s.loadByte (srcByte src s))).trans rfl
      | clear => exact (ih s.clearByte).trans rfl
      | countBit => exact (ih s.countBit).trans rfl
      | store use b => exact (ih (s.storeBit use b)).trans (by cases use <;> rfl)
    | sampleEnd use => rfl
    | sendBits =>
      simp only [settle]
      split
      · exact ih s
      · rfl
    | recvBits =>
      simp only [settle]
      split
      · exact ih s
      · rfl
    | nakExit stop =>
      simp only [settle]
      split
      · rfl
      · exact ih s
    | finish k => rfl

/-- A register write reaches the operand register it names, or is a command write, or does nothing (R54). -/
theorem regWrite_cases (off : Offset) (v : Byte) (s : State) :
    (off = 0 ∧ regWrite off v s = writeCmd v s) ∨ (off = 1 ∧ regWrite off v s = s.setSaddr (v.truncate 7)) ∨
    (off = 2 ∧ regWrite off v s = s.setRegsel v) ∨ (off = 3 ∧ regWrite off v s = s.setWdata v) ∨
    (off ≠ 0 ∧ off ≠ 1 ∧ off ≠ 2 ∧ off ≠ 3 ∧ regWrite off v s = s) := by
  unfold regWrite
  split
  · exact .inl ⟨‹_›, rfl⟩
  · split
    · exact .inr (.inl ⟨‹_›, rfl⟩)
    · split
      · exact .inr (.inr (.inl ⟨‹_›, rfl⟩))
      · split
        · exact .inr (.inr (.inr (.inl ⟨‹_›, rfl⟩)))
        · exact .inr (.inr (.inr (.inr ⟨‹_›, ‹_›, ‹_›, ‹_›, rfl⟩)))

/-- A command write is an acceptance or nothing (R160, R161). -/
theorem writeCmd_cases (v : Byte) (s : State) :
    writeCmd v s = s ∨ ∃ c, Cmd.ofCode v = some c ∧ s.busy = false ∧ writeCmd v s = accept c s := by
  unfold writeCmd
  cases h : Cmd.ofCode v with
  | none => exact .inl rfl
  | some c =>
    cases hb : s.busy
    · exact .inr ⟨c, rfl, rfl, rfl⟩
    · exact .inl rfl

end Sys2Proof.Machine
end

