-- ==== Sys2Proof/Laws/PerInstr.lean ====
section
/-! SUPPORT. The per-instruction law TableRow: the encoded word of an instruction has the width, and under the mask the
match value, that its row of spec/opcode_table.json gives. -/

namespace Sys2Proof.Laws.TableRow

open Sys2Proof

/-- A row of the opcode table: width in bits, match, mask. -/
structure Row where
  nbits : Nat
  matchBits : Nat
  mask : Nat
  deriving DecidableEq, Repr

/-- The opcode table, copied from spec/opcode_table.json. -/
def row : Instr → Row
  | .init => ⟨8, 0x01, 0xFF⟩
  | .sendByte => ⟨8, 0x02, 0xFF⟩
  | .receiveByte => ⟨8, 0x03, 0xFF⟩
  | .sendByteData => ⟨8, 0x04, 0xFF⟩
  | .receiveByteData => ⟨8, 0x05, 0xFF⟩
  | .relScl => ⟨8, 0x10, 0xFF⟩
  | .drvScl => ⟨8, 0x11, 0xFF⟩
  | .relSda => ⟨8, 0x12, 0xFF⟩
  | .drvSda => ⟨8, 0x13, 0xFF⟩
  | .delay => ⟨8, 0x14, 0xFF⟩
  | .sampleSda => ⟨8, 0x15, 0xFF⟩
  | .start => ⟨16, 0x1000, 0xFFFF⟩
  | .stop => ⟨16, 0x2000, 0xFFFF⟩
  | .writeBit _ => ⟨16, 0x3000, 0xFEFF⟩
  | .readBit => ⟨16, 0x4000, 0xFFFF⟩
  | .writeByte _ _ _ => ⟨16, 0x5000, 0xFC00⟩
  | .readByte _ _ => ⟨16, 0x6000, 0xFCFF⟩

/-- The width and the value of an encoded word. -/
def bitsOf : EncWord → Nat × Nat
  | .cmd v => (8, v.toNat)
  | .uop w => (8, w.toNat)
  | .prim w => (16, w.toNat)

/-- The encoded word is the table's row. -/
def Statement (i : Instr) : Prop :=
  (bitsOf (encode i)).1 = (row i).nbits ∧ (bitsOf (encode i)).2 &&& (row i).mask = (row i).matchBits

theorem init : Statement .init := by constructor <;> decide
theorem sendByte : Statement .sendByte := by constructor <;> decide
theorem receiveByte : Statement .receiveByte := by constructor <;> decide
theorem sendByteData : Statement .sendByteData := by constructor <;> decide
theorem receiveByteData : Statement .receiveByteData := by constructor <;> decide
theorem relScl : Statement .relScl := by constructor <;> decide
theorem drvScl : Statement .drvScl := by constructor <;> decide
theorem relSda : Statement .relSda := by constructor <;> decide
theorem drvSda : Statement .drvSda := by constructor <;> decide
theorem delay : Statement .delay := by constructor <;> decide
theorem sampleSda : Statement .sampleSda := by constructor <;> decide
theorem start : Statement .start := by constructor <;> decide
theorem stop : Statement .stop := by constructor <;> decide
theorem writeBit (v : Bool) : Statement (.writeBit v) := by cases v <;> constructor <;> decide
theorem readBit : Statement .readBit := by constructor <;> decide
theorem writeByte (x : Byte) (startFlag stopFlag : Bool) : Statement (.writeByte x startFlag stopFlag) := by
  refine ⟨rfl, ?_⟩
  revert x startFlag stopFlag
  decide
theorem readByte (sendAckFlag stopFlag : Bool) : Statement (.readByte sendAckFlag stopFlag) := by
  cases sendAckFlag <;> cases stopFlag <;> constructor <;> decide

end Sys2Proof.Laws.TableRow
end

