-- ==== Sys2Proof/Laws/Step.lean ====
section
/-! SUPPORT. What one step can do, said once. -/

namespace Sys2Proof.Machine

open Sys2Proof

/-- A step that goes on: the configuration is a BBM's, and the head of the script was a cycle, a `wait`, a reset cycle, or a
word, which is an instruction executed or a reserved command byte passed over. -/
theorem step_cases {s t : State} (h : step s = .next t) :
    s.cfg.wellFormed = true ∧
    ((s.inputs = [] ∧ t = clockCycle .none s) ∨
     (∃ a rest, s.inputs = .cycle a :: rest ∧ t = clockCycle a (s.setInputs rest)) ∨
     (∃ rest, s.inputs = .wait :: rest ∧ t = waitCycle rest s) ∨
     (∃ a rest, s.inputs = .rst a :: rest ∧ t = resetCycle a (s.setInputs rest)) ∨
     (∃ w rest i, s.inputs = .word w :: rest ∧ decode w = .ok i ∧ exec i (s.pastWord rest) = .next t) ∨
     (∃ v rest, s.inputs = .word (.cmd v) :: rest ∧ Cmd.ofCode v = none ∧ t = s.pastWord rest)) := by
  unfold step at h
  split at h
  case isFalse => cases h
  case isTrue hc =>
    refine ⟨hc, ?_⟩
    match hi : s.inputs with
    | [] =>
      simp only [fetch, hi] at h; cases h
      exact .inl ⟨rfl, rfl⟩
    | .cycle a :: rest =>
      simp only [fetch, hi] at h; cases h
      exact .inr (.inl ⟨a, rest, rfl, rfl⟩)
    | .wait :: rest =>
      simp only [fetch, hi] at h; cases h
      exact .inr (.inr (.inl ⟨rest, rfl, rfl⟩))
    | .rst a :: rest =>
      simp only [fetch, hi] at h; cases h
      exact .inr (.inr (.inr (.inl ⟨a, rest, rfl, rfl⟩)))
    | .word w :: rest =>
      simp only [fetch, hi, fetchWord] at h
      match hd : decode w with
      | .ok i =>
        simp only [hd] at h
        exact .inr (.inr (.inr (.inr (.inl ⟨w, rest, i, rfl, hd, h⟩))))
      | .reservedCmd v =>
        simp only [hd] at h; cases h
        cases w with
        | cmd x =>
          simp only [decode] at hd
          split at hd <;> cases hd
          exact .inr (.inr (.inr (.inr (.inr ⟨_, rest, rfl, ‹_›, rfl⟩))))
        | uop x => simp only [decode] at hd; split at hd <;> cases hd
        | prim x => simp only [decode] at hd; split at hd <;> cases hd
      | .invalidUop v => simp only [hd] at h; cases h
      | .invalidPrim v => simp only [hd] at h; cases h

end Sys2Proof.Machine
end

