-- ==== Sys2Proof/Tests/Slice0.lean ====
section
/-! SUPPORT. The model's own tests: the checks refuse what is ill formed, words written out from the spec decode, one step
of each instruction against the tables of 95_test_vectors.md, and the witnesses of the statements. -/

namespace Sys2Proof.Machine

open Sys2Proof

/-! ## Helpers -/

/-- The outcome is a next state with this property. -/
def ran (o : Outcome) (p : State → Bool) : Bool :=
  match o with
  | .next t => p t
  | .fault _ | .refused _ => false

/-- The outcome is this refusal. -/
def refusedAs (o : Outcome) (r : Refusal) : Bool :=
  match o with
  | .refused q => decide (q = r)
  | .next _ | .fault _ => false

/-- The reset state with these drivers and draws, ACTIVE where SCL is driven. -/
def onLines (scl sda : Bool) (draws : List Bool) : State :=
  { State.reset with sclOe := scl, sdaOe := sda, framing := if scl then .active else .idle, draws := draws }

/-- The operands of 95_test_vectors.md V9, set before the command, and these draws. -/
def operands (draws : List Bool) : State :=
  { State.reset with saddr := 0x44, regsel := 0x17, wdata := 0xCC, draws := draws }

/-- The reset state with this script. -/
def script (is : List Input) : State := { State.reset with inputs := is }

/-- A state with a SEND_BYTE just accepted, and this script. -/
def running (is : List Input) : State := accept .sendByte (script is)

/-! ## Checks: one ill-formed term each -/

theorem test_config_initial_ok : Config.initial.wellFormed = true := by decide
theorem test_config_too_few_pins : ({ Config.initial with nGpio := 1 } : Config).wellFormed = false := by decide
theorem test_config_scl_pin_outside : ({ Config.initial with sclPin := 2 } : Config).wellFormed = false := by decide
theorem test_config_sda_pin_outside : ({ Config.initial with sdaPin := 2 } : Config).wellFormed = false := by decide
theorem test_config_one_pin : ({ Config.initial with sclPin := 1 } : Config).wellFormed = false := by decide
theorem test_config_no_delay : ({ Config.initial with delayCycles := 0 } : Config).wellFormed = false := by decide
theorem test_cmd_word_zero : EncWord.wellFormed (.cmd 0x00) = false := by decide
theorem test_cmd_word_six : EncWord.wellFormed (.cmd 0x06) = false := by decide
theorem test_uop_word_six : EncWord.wellFormed (.uop 0x16) = false := by decide
theorem test_uop_word_form : EncWord.wellFormed (.uop 0x18) = false := by decide
theorem test_prim_reserved_bits : primReservedOk 0x5400 = false := by decide
theorem test_prim_kind : EncWord.wellFormed (.prim 0x7000) = false := by decide
theorem test_prim_kind_zero : EncWord.wellFormed (.prim 0x0000) = false := by decide
theorem test_prim_f : primFOk 0x3200 = false := by decide
theorem test_prim_g : primGOk 0x4100 = false := by decide
theorem test_prim_b : primBOk 0x6001 = false := by decide
theorem test_every_instruction_well_formed : Instr.wellFormed (.writeByte 0xFF true true) = true := by decide

/-! ## Decoding: words of V2 and V3, written out from R72, R74 and R75 -/

theorem test_decode_cmd_words :
    [0x01, 0x02, 0x03, 0x04, 0x05].map (decodeTableWord 8) =
      [some .init, some .sendByte, some .receiveByte, some .sendByteData, some .receiveByteData] := by decide

theorem test_decode_cmd_reserved :
    [0x00, 0x06, 0x81, 0xFF].map (fun v => decode (.cmd v)) =
      [.reservedCmd 0x00, .reservedCmd 0x06, .reservedCmd 0x81, .reservedCmd 0xFF] := by decide

theorem test_decode_uop_words :
    [0b00010000, 0b00010001, 0b00010010, 0b00010011, 0b00010100, 0b00010101].map (decodeTableWord 8) =
      [some .relScl, some .drvScl, some .relSda, some .drvSda, some .delay, some .sampleSda] := by decide

theorem test_decode_uop_invalid :
    [0x16, 0x17, 0x00, 0x18, 0xFF].map (fun w => decode (.uop w)) =
      [.invalidUop 0x16, .invalidUop 0x17, .invalidUop 0x00, .invalidUop 0x18, .invalidUop 0xFF] := by decide

theorem test_decode_prim_words :
    [0x1000, 0x2000, 0x3000, 0x3100, 0x4000, 0x5288, 0x51CC, 0x5017, 0x6100, 0x6200].map (decodeTableWord 16) =
      [some .start, some .stop, some (.writeBit false), some (.writeBit true), some .readBit,
       some (.writeByte 0x88 true false), some (.writeByte 0xCC false true), some (.writeByte 0x17 false false),
       some (.readByte false true), some (.readByte true false)] := by decide

theorem test_decode_prim_invalid :
    [0x1001, 0x3200, 0x4100, 0x5400, 0x6001, 0x7000, 0x0000, 0xF000].map (fun w => decode (.prim w)) =
      [.invalidPrim 0x1001, .invalidPrim 0x3200, .invalidPrim 0x4100, .invalidPrim 0x5400,
       .invalidPrim 0x6001, .invalidPrim 0x7000, .invalidPrim 0x0000, .invalidPrim 0xF000] := by decide

/-- V1: access words. -/
theorem test_access_words :
    (Access.wr 1 0xC4).encode = some 0x9C4 ∧ (Access.rd 4).encode = some 0x400 ∧
    Access.decode 0x802 = some (.wr 0 0x02) ∧ Access.decode 0x500 = some (.rd 5) := by decide

/-- V4: address bytes. -/
theorem test_address_bytes :
    addrByte 0x44 false = 0x88 ∧ addrByte 0x44 true = 0x89 ∧ addrByte 0x7F true = 0xFF := by decide

/-! ## Uops: V5 -/

theorem test_relScl_releases :
    ran (exec .relScl (onLines true false [])) (fun t => t.lines == Lines.released && t.trace == [.relScl]) = true := by decide
theorem test_drvScl_drives :
    ran (exec .drvScl (onLines false true [])) (fun t => t.lines == ⟨true, true⟩ && t.trace == [.drvScl]) = true := by decide
theorem test_relSda_releases :
    ran (exec .relSda (onLines true true [])) (fun t => t.lines == ⟨true, false⟩ && t.trace == [.relSda]) = true := by decide
theorem test_drvSda_drives :
    ran (exec .drvSda (onLines true false [])) (fun t => t.lines == ⟨true, true⟩ && t.trace == [.drvSda]) = true := by decide
theorem test_delay_ends_at_zero :
    ran (exec .delay (onLines true false [])) (fun t => t.dcnt == 0 && t.trace == [.delay]) = true := by decide
theorem test_sample_takes_the_draw :
    ran (exec .sampleSda (onLines true false [true])) (fun t => t.draws == [] && t.drawn == 1 && t.trace == [.sample true]) = true := by
  decide
theorem test_sample_own_low_keeps_the_draw :
    ran (exec .sampleSda (onLines true true [true])) (fun t => t.draws == [true] && t.drawn == 0 && t.trace == [.sample false]) = true := by
  decide

/-! ## Primitives: V6, V7, V8 -/

theorem test_start_from_reset :
    ran (exec .start State.reset) (fun t => t.lines == ⟨true, true⟩ && t.framing == .active &&
      t.trace == [.relScl, .relSda, .delay, .drvSda, .delay, .drvScl, .delay]) = true := by decide
theorem test_stop_from_active :
    ran (exec .stop (onLines true false [])) (fun t => t.lines == Lines.released && t.framing == .idle &&
      t.trace == [.drvSda, .delay, .relScl, .delay, .relSda, .delay]) = true := by decide
theorem test_writeBit_zero :
    ran (exec (.writeBit false) (onLines true true [])) (fun t => t.lines == ⟨true, true⟩ &&
      t.trace == [.drvSda, .delay, .relScl, .delay, .drvScl, .delay]) = true := by decide
theorem test_writeBit_one :
    ran (exec (.writeBit true) (onLines true true [])) (fun t => t.lines == ⟨true, false⟩) = true := by decide
theorem test_readBit_zero :
    ran (exec .readBit (onLines true true [false])) (fun t => t.lines == ⟨true, false⟩ && t.drawn == 1 &&
      t.trace == [.relSda, .delay, .relScl, .delay, .sample false, .drvScl]) = true := by decide
set_option maxRecDepth 20000 in
theorem test_writeByte_nak_with_stop :
    ran (exec (.writeByte 0x89 true true) (onLines false false [true])) (fun t => t.ackb && t.sr == 0x00 && t.bitcnt == 8 &&
      t.lines == Lines.released && t.framing == .idle && t.trace.length == 67) = true := by decide
set_option maxRecDepth 20000 in
theorem test_writeByte_ack_shows_its_bits :
    ran (exec (.writeByte 0x88 false false) (onLines true true [false])) (fun t => !t.ackb &&
      wireFrom 0 ⟨true, true⟩ none t.trace ==
        [true, false, false, false, true, false, false, false, false].map Sym.bit) = true := by decide
set_option maxRecDepth 20000 in
theorem test_readByte_0x7B :
    ran (exec (.readByte false true) (onLines true true [false, true, true, true, true, false, true, true]))
      (fun t => t.sr == 0x7B && t.bitcnt == 8 && t.lines == Lines.released && t.trace.length == 60) = true := by decide
set_option maxRecDepth 20000 in
theorem test_readByte_master_ack_leaves_sda_driven :
    ran (exec (.readByte true false) (onLines true true [true, false, false, false, false, false, false, false]))
      (fun t => t.sr == 0x80 && t.lines == ⟨true, true⟩) = true := by decide

/-! ## Commands: V9, the number of events being the uops, `Cmd` and `Done` -/

theorem test_init_from_reset :
    ran (exec .init State.reset) (fun t => t.trace == [.cmd 0x01, .relScl, .relSda, .delay, .done none] &&
      t.result == 0x00 && !t.busy) = true := by decide
set_option maxRecDepth 20000 in
theorem test_sendByte_all_ack :
    ran (exec .sendByte (operands [false, false])) (fun t => t.result == 0x01 && t.lines == Lines.released &&
      t.trace.length == 123) = true := by decide
set_option maxRecDepth 20000 in
theorem test_sendByte_data_nak :
    ran (exec .sendByte (operands [false, true])) (fun t => t.result == 0x00 && t.ackb && t.trace.length == 123) = true := by decide
set_option maxRecDepth 20000 in
theorem test_receiveByte_0x5A :
    ran (exec .receiveByte (operands [false, false, true, false, true, true, false, true, false]))
      (fun t => t.result == 0x5A && !t.ackb && t.trace.length == 123) = true := by decide
set_option maxRecDepth 20000 in
theorem test_receiveByte_nak_without_stop :
    ran (exec .receiveByte { operands [true] with cfg := { Config.initial with rbNakStop := false } })
      (fun t => t.result == 0x00 && t.lines == ⟨true, false⟩ && t.status == 0x02 && t.trace.length == 63) = true := by decide
set_option maxRecDepth 20000 in
theorem test_sendByteData_register_nak :
    ran (exec .sendByteData (operands [false, true])) (fun t => t.result == 0x00 && t.lines == Lines.released &&
      t.trace.length == 123) = true := by decide
set_option maxRecDepth 20000 in
theorem test_sendByteData_all_ack :
    ran (exec .sendByteData (operands [false, false, false])) (fun t => t.result == 0x01 && t.trace.length == 177) = true := by decide
set_option maxRecDepth 20000 in
theorem test_receiveByteData_0x7B :
    ran (exec .receiveByteData (operands [false, false, false, false, true, true, true, true, false, true, true]))
      (fun t => t.result == 0x7B && t.sr == 0x7B && t.trace.length == 238 &&
        conditionsFrom 0 Lines.released t.trace == [.start, .start, .stop]) = true := by decide
set_option maxRecDepth 20000 in
theorem test_receiveByteData_read_address_nak :
    ran (exec .receiveByteData (operands [false, false, true]))
      (fun t => t.result == 0x00 && t.ackb && t.trace.length == 184) = true := by decide
theorem test_busy_command_ignored :
    ran (exec .init (running [])) (fun t => t == running []) = true := by decide

/-! ## Host port and cycles: V1, P5, V10, V11 -/

theorem test_addr_bit7_ignored :
    ran (step (script [.cycle (.wr 1 0xC4)])) (fun t => t.regRead 1 == 0x44) = true := by decide
theorem test_status_write_ignored :
    ran (step (script [.cycle (.wr 4 0xFF)])) (fun t => t == State.reset) = true := by decide
theorem test_read_is_recorded :
    ran (step { script [.cycle (.rd 5)] with result := 0x5A }) (fun t => t.reads == [⟨5, 0x5A⟩] && t.result == 0x5A) = true := by
  decide
theorem test_reserved_command_ignored :
    ran (step (script [.cycle (.wr 0 0x81)])) (fun t => t == State.reset) = true := by decide
theorem test_command_while_busy_ignored :
    ran (step (running [.cycle (.wr 0 0x04)])) (fun t => t.opL == 0x02 && t.trace == [.cmd 0x02, .relScl]) = true := by decide
theorem test_wait_stays_while_busy :
    ran (step (running [.wait])) (fun t => t.inputs == [.wait] && t.reads == [⟨4, 0x01⟩]) = true := by decide
theorem test_wait_over_when_idle :
    ran (step (script [.wait])) (fun t => t.inputs == [] && t.reads == [⟨4, 0x00⟩]) = true := by decide
theorem test_init_takes_five_cycles_at_two :
    ran (runSteps 4 (accept .init (script []))) (fun t => t.busy) = true ∧
    ran (runSteps 5 (accept .init (script []))) (fun t => !t.busy && t.trace == [.cmd 0x01, .relScl, .relSda, .delay, .done none])
      = true := by decide
theorem test_reset_abandons_a_command :
    ran (step { running [.rst (.wr 0 0x01)] with result := 0x01 })
      (fun t => !t.busy && t.seq == .idle && t.result == 0x00 && t.trace == [.cmd 0x02, .reset]) = true := by decide
theorem test_gpio_follows_drivers :
    (onLines true false []).gpio 0 = some { dir := .output, level := false } ∧
    (onLines true false []).gpio 1 = some { dir := .input, level := false } ∧ (onLines true false []).gpio 2 = none := by decide
theorem test_one_pin_refused :
    refusedAs (step { script [] with cfg := { Config.initial with sdaPin := 0 } }) .badConfig = true := by decide
theorem test_invalid_words_refused :
    refusedAs (step (script [.word (.uop 0x16)])) (.invalidUop 0x16) = true ∧
    refusedAs (step (script [.word (.prim 0x7000)])) (.invalidPrim 0x7000) = true := by decide
theorem test_placed_words_run :
    ran (step (State.reset.withFetchWord 8 0x11)) (fun t => t.trace == [.drvScl] && t.inputs == []) = true ∧
    ran (step (State.reset.withFetchWord 16 0x1000)) (fun t => t.framing == .active) = true ∧
    ran (step (State.reset.withFetchWord 8 0x01)) (fun t => t.opL == 0x01 && !t.busy) = true := by decide
theorem test_initial_state_is_safe : (running []).inv = true := by decide

/-! ## Witnesses: for each statement with hypotheses, named after it, concrete states that meet them, one per clause -/

/-- The block inside a transaction that RECEIVE_BYTE left open: RB_NAK_STOP = 0, SCL driven, ACTIVE (R41, R235). -/
def openBus (draws : List Bool) : State :=
  { operands draws with cfg := { Config.initial with rbNakStop := false }, sclOe := true, framing := .active }

/-- The idle bus with RB_NAK_STOP = 0. -/
def quietBus (draws : List Bool) : State :=
  { operands draws with cfg := { Config.initial with rbNakStop := false } }

/-- A command of which only its last DELAY of STOP and its completion remain. -/
def lastDelay : State :=
  { State.reset with busy := true, seq := .at [.micro (.uop .delay), .finish .byte], sr := 0x5A, bitcnt := 8 }

/-- A running command at these micros, with only its completion after them. -/
def seqAt (ms : List Micro) : State :=
  { State.reset with busy := true, seq := .at (micros ms ++ [.finish .ack]) }

/-- A command of which only its completion remains. -/
def lastCycle (is : List Input) : State :=
  { State.reset with busy := true, seq := .at [.finish .byte], sr := 0x5A, bitcnt := 8, inputs := is }

theorem witness_EncodeOfDecodeIsTheWord :
    decode (.cmd 0x05) = .ok .receiveByteData ∧ decode (.uop 0x15) = .ok .sampleSda ∧
    decode (.prim 0x53FF) = .ok (.writeByte 0xFF true true) := by decide
theorem witness_DecodersAcceptExactlyTheWellFormedWords :
    cmdWordOk 0x00 = false ∧ cmdWordOk 0x06 = false ∧ uopWordOk 0x0F = false ∧ uopWordOk 0x16 = false ∧
    primWordOk 0x0FFF = false ∧ primWordOk 0x7000 = false ∧ cmdWordOk 0x05 = true ∧ uopWordOk 0x15 = true ∧
    primWordOk 0x6300 = true := by decide
theorem witness_AccessWordsReadBack :
    (Access.wr 7 0xFF).encode = some 0xFFF ∧ (Access.rd 0).encode = some 0x000 := by decide
theorem witness_StepExecutesTheDecodedInstruction :
    (script [.word (.prim 0x1000), .wait]).cfg.wellFormed = true ∧
    (script [.word (.prim 0x1000), .wait]).inputs = .word (.prim 0x1000) :: [.wait] ∧
    decode (.prim 0x1000) = .ok .start ∧ decodeTableWord 16 0x63FF = none ∧
    decodeTableWord 16 0x6300 = some (.readByte true true) := by decide
theorem witness_InvalidInternalWordsAreRefused :
    (script [.word (.uop 0x16)]).inputs = .word (.uop 0x16) :: [] ∧ uopWordOk 0x16 = false ∧
    (script [.word (.prim 0x0FFF)]).inputs = .word (.prim 0x0FFF) :: [] ∧ primWordOk 0x0FFF = false ∧
    State.reset.cfg.wellFormed = true := by decide
theorem witness_ParametersAreFixedAndOnePinIsRefused :
    (∃ t, step State.reset = .next t) ∧ ({ Config.initial with sdaPin := 0 } : Config).sclPin =
      ({ Config.initial with sdaPin := 0 } : Config).sdaPin := ⟨⟨State.reset, rfl⟩, by decide⟩
theorem witness_IdleBlockKeepsItsState :
    State.reset.cfg.wellFormed = true ∧ State.reset.busy = false ∧ State.reset.inputs = [] := by decide
theorem witness_ResetCycleSetsEveryElement :
    (running [.rst (.wr 0 0x01), .wait]).cfg.wellFormed = true ∧
    (running [.rst (.wr 0 0x01), .wait]).inputs = .rst (.wr 0 0x01) :: [.wait] ∧
    (running [.rst (.rd 5)]).inputs = .rst (.rd 5) :: [] ∧ (running [.rst .none]).inputs = .rst .none :: [] ∧
    (running [.rst .none]).resetHeld = false := by decide
theorem witness_RunOfResetCyclesIsOneReset :
    (running [.rst .none, .rst .none, .cycle (.wr 0 0x05)]).resetHeld = false ∧
    (running [.rst .none, .rst .none, .cycle (.wr 0 0x05)]).inputs =
      List.replicate (1 + 1) (.rst .none) ++ .cycle (.wr 0 Cmd.receiveByteData.code) :: [] ∧
    (running [.rst .none, .cycle (.wr 0 0x01)]).inputs =
      List.replicate (0 + 1) (.rst .none) ++ .cycle (.wr 0 Cmd.init.code) :: [] ∧
    (running []).cfg.wellFormed = true := by decide
theorem witness_ReadsHaveNoSideEffect :
    (running [.cycle (.rd 7)]).cfg.wellFormed = true ∧
    (running [.cycle (.rd 7)]).inputs = .cycle (.rd 7) :: [] ∧ (script [.cycle (.rd 0)]).inputs = .cycle (.rd 0) :: [] := by
  decide
/-- Offsets 1, 2, 3, and 4 and 7, each under one clause only. -/
theorem witness_RegisterWritesStoreAndNothingElse :
    (running []).cfg.wellFormed = true ∧
    (∀ off ∈ [(1 : Offset), 2, 3, 4, 7], (running [.cycle (.wr off 0xFF)]).inputs = .cycle (.wr off 0xFF) :: []) ∧
    ¬(4 ≤ (1 : Offset).toNat) ∧ ¬(4 ≤ (3 : Offset).toNat) ∧ 4 ≤ (4 : Offset).toNat ∧ 4 ≤ (7 : Offset).toNat := by decide
theorem witness_IgnoredCommandWritesHaveNoEffect :
    (running [.cycle (.wr 0 0x05)]).busy = true ∧
    (running [.cycle (.wr 0 0x05)]).inputs = .cycle (.wr 0 0x05) :: [] ∧ Cmd.ofCode 0x00 = none ∧ Cmd.ofCode 0x06 = none ∧
    Cmd.ofCode 0x01 ≠ none ∧ Cmd.ofCode 0x05 ≠ none ∧
    (script [.cycle (.wr 0 0x06)]).inputs = .cycle (.wr 0 0x06) :: [] ∧ State.reset.cfg.wellFormed = true := by decide
theorem witness_AcceptedCommandWriteLatchesOperands :
    State.reset.cfg.wellFormed = true ∧ State.reset.busy = false ∧
    (script [.cycle (.wr 0 0x03)]).inputs = .cycle (.wr 0 Cmd.receiveByte.code) :: [] := by decide
theorem witness_LatchesChangeOnlyAtAcceptance :
    ran (step (script [.cycle (.wr 0 0x02)])) (fun t => t.opL != (script [.cycle (.wr 0 0x02)]).opL) = true := by decide
theorem witness_OperandRegistersDoNotReachARunningCommand :
    (running []).busy = true ∧ (running []).inputs = [] ∧ ran (runSteps 3 (running [])) (fun _ => true) = true := by decide
theorem witness_ResultChangesOnlyAtCompletion :
    ran (step (lastCycle [.cycle (.wr 0 0x01)])) (fun t => t.result != (lastCycle []).result) = true := by decide
theorem witness_WaitReadsStatusUntilNotBusy :
    (running [.wait]).inputs = .wait :: [] ∧ (script [.wait]).inputs = .wait :: [] := by decide
theorem witness_PinsFollowTheDriversAndNeverDriveHigh :
    (onLines true false []).cfg.wellFormed = true ∧ 2 ≠ State.reset.cfg.sclPin ∧ 2 ≠ State.reset.cfg.sdaPin := by decide
theorem witness_SampleReturnsTheLevelOfSda :
    (onLines true true []).sdaOe = true ∧ (onLines true false [false]).sdaOe = false := by decide
theorem witness_DelayTakesDelayCyclesCycles :
    lastDelay.cfg.wellFormed = true ∧ lastDelay.busy = true ∧ lastDelay.inputs = [] ∧ lastDelay.resetHeld = false ∧
    lastDelay.dcnt = 0 ∧ lastDelay.seq = .at (.micro (.uop .delay) :: [.finish .byte]) ∧
    0 < 1 ∧ 1 < lastDelay.cfg.delayCycles := by decide
theorem witness_StartIssuesAStartCondition :
    (seqAt (startMicros.drop 3)).cfg.wellFormed = true ∧ (seqAt (startMicros.drop 3)).busy = true ∧
    (seqAt (startMicros.drop 3)).inputs = [] ∧ (seqAt (startMicros.drop 3)).resetHeld = false ∧
    (seqAt (startMicros.drop 3)).seq = .at (micros (startMicros.drop 3) ++ [.finish .ack]) := by decide
theorem witness_StopIssuesAStopCondition :
    (seqAt (stopMicros.drop 4)).cfg.wellFormed = true ∧ (seqAt (stopMicros.drop 4)).busy = true ∧
    (seqAt (stopMicros.drop 4)).inputs = [] ∧ (seqAt (stopMicros.drop 4)).resetHeld = false ∧
    (seqAt (stopMicros.drop 4)).seq = .at (micros (stopMicros.drop 4) ++ [.finish .ack]) := by decide
theorem witness_StartThenStopLeavesTheBusIdle : State.reset.lines = Lines.released := by decide
theorem witness_BitPrimitivesCreateNoCondition : (onLines true true []).sclOe = true := by decide
theorem witness_ShiftRegisterIsMostSignificantFirst :
    [true, false, true, false, false, true, false, true].length = 8 := by decide
theorem witness_ByteTransfersRoundTrip : (onLines true false [false]).sclOe = true := by decide
theorem witness_InitReleasesBothLines : (openBus []).busy = false := by decide
theorem witness_SendByteWritesOneByte :
    (operands [true]).busy = false ∧ (operands [true]).nextDraw 0 = true ∧
    (operands [false, true]).nextDraw 0 = false := by decide
theorem witness_ReceiveByteReadsOneByte :
    (operands [true]).busy = false ∧ (operands [true]).nextDraw 0 = true ∧ (operands [true]).cfg.rbNakStop = true ∧
    (quietBus [true]).busy = false ∧ (quietBus [true]).nextDraw 0 = true ∧ (quietBus [true]).cfg.rbNakStop = false ∧
    (operands [false]).nextDraw 0 = false := by decide
theorem witness_SendByteDataWritesRegisterAndByte :
    (operands [true]).busy = false ∧ (operands [true]).nextDraw 0 = true ∧
    (operands [false, true]).nextDraw 0 = false ∧ (operands [false, true]).nextDraw 1 = true ∧
    (operands [false, false]).nextDraw 0 = false ∧ (operands [false, false]).nextDraw 1 = false := by decide
theorem witness_ReceiveByteDataReadsAfterARepeatedStart :
    (operands [true]).busy = false ∧ (operands [true]).nextDraw 0 = true ∧
    (operands [false, true]).nextDraw 0 = false ∧ (operands [false, true]).nextDraw 1 = true ∧
    (operands [false, false, true]).nextDraws 0 3 = [false, false, true] ∧
    (operands [false, false, false]).nextDraws 0 3 = [false, false, false] := by decide
theorem witness_ExactlyOneStopPerCommand :
    (operands []).busy = false ∧ (operands []).cfg.rbNakStop = true ∧
    quietLines (operands []).cfg.rbNakStop (operands []).lines (operands []).framing = true ∧
    (openBus []).busy = false ∧ quietLines (openBus []).cfg.rbNakStop (openBus []).lines (openBus []).framing = true := by
  decide
theorem witness_NoTransferAfterAnAddressNak :
    (operands [true]).busy = false ∧ (operands [true]).nextDraw 0 = true ∧
    quietLines (operands [true]).cfg.rbNakStop (operands [true]).lines (operands [true]).framing = true ∧
    (openBus [true]).busy = false ∧ (openBus [true]).nextDraw 0 = true ∧
    quietLines (openBus [true]).cfg.rbNakStop (openBus [true]).lines (openBus [true]).framing = true := by decide
theorem witness_WireSequenceWhenAllAcknowledged :
    (operands [false, false, false]).busy = false ∧
    quietLines (operands []).cfg.rbNakStop (operands []).lines (operands []).framing = true ∧
    (operands [false, false, false]).nextDraws 0 2 = [false, false] ∧ (operands [false, false, false]).nextDraw 0 = false ∧
    (operands [false, false, false]).nextDraws 0 3 = [false, false, false] := by decide
theorem witness_ReadFailureLooksLikeAZeroByte :
    (operands [true]).busy = false ∧ (operands [true]).cfg.rbNakStop = true ∧ (operands [true]).nextDraw 0 = true := by decide
theorem witness_EveryPathHasItsUopAndDelayCounts : (operands []).busy = false := by decide
theorem witness_OpenTransactionAfterReceiveByteNak :
    (quietBus [true]).busy = false ∧ (quietBus [true]).cfg.rbNakStop = false ∧
    quietLines false (quietBus [true]).lines (quietBus [true]).framing = true ∧ (quietBus [true]).nextDraw 0 = true ∧
    quietLines false (openBus [true]).lines (openBus [true]).framing = true := by decide
theorem witness_TraceOnlyGrows : ran (step (running [])) (fun _ => true) = true := by decide
theorem witness_HostDrivenBlockNeverStops :
    (running [.cycle (.rd 4), .rst .none, .wait, .word (.cmd 0x06)]).cfg.wellFormed = true ∧
    (running [.cycle (.rd 4), .rst .none, .wait, .word (.cmd 0x06)]).inputs.all hostEntry = true := by decide
theorem witness_SequencerRunsEachCommandToItsMeaning :
    (operands []).cfg.wellFormed = true ∧ (operands []).busy = false ∧ (operands []).dcnt = 0 ∧ (operands []).inputs = [] ∧
    (operands []).resetHeld = false := by decide
theorem witness_EveryCommandFinishesInBoundedTime :
    ({ operands [] with inputs := (List.replicate 343 (Access.rd 4)).map Input.cycle } : State).busy = false ∧
    (List.replicate 343 (Access.rd 4)).length = 131 + 106 * (operands []).cfg.delayCycles ∧
    (operands []).dcnt = 0 ∧ (operands []).cfg.wellFormed = true := by
  refine ⟨rfl, ?_, rfl, by decide⟩
  rw [List.length_replicate]
  decide
/-- The start condition of a START, and the stop condition of a STOP, each about to be performed. -/
theorem witness_SdaChangesWithSclReleasedOnlyAsConditions :
    (∃ s : State, s.inv = true ∧ s.inputs = [] ∧ s.sclOe = false ∧
      ran (step s) (fun t => t.sdaOe != s.sdaOe && t.sdaOe) = true) ∧
    (∃ s : State, s.inv = true ∧ s.inputs = [.cycle (.rd 4)] ∧ s.sclOe = false ∧
      ran (step s) (fun t => t.sdaOe != s.sdaOe && !t.sdaOe) = true) :=
  ⟨⟨{ operands [] with busy := true, seq := .at (micros (startMicros.drop 3 ++ stopMicros) ++ [.finish .ack]) }, by decide⟩,
    ⟨{ operands [] with
        busy := true, seq := .at (micros (stopMicros.drop 4) ++ [.finish .ack]), sdaOe := true,
        framing := .active, inputs := [.cycle (.rd 4)] }, by decide⟩⟩
theorem witness_EveryStepKeepsTheBlockInvariant :
    (running []).inv = true ∧ ran (step (running [])) (fun _ => true) = true := by decide
theorem witness_RestingBlockHasReleasedTheBus :
    (operands []).inv = true ∧ (operands []).busy = false ∧ (operands []).framing = .idle ∧ (operands []).cfg.rbNakStop = true ∧
    (openBus []).inv = true ∧ (openBus []).busy = false ∧ (openBus []).framing = .active := by decide

end Sys2Proof.Machine
end

section
/-! PROOFS. The scope of the block (00_scope.md R7, R9): what no instruction writes, the parameters no step changes, and the
configuration a step refuses. -/

namespace Sys2Proof.Machine

open Sys2Proof

/-! ## The host's side of the state, which no instruction writes -/

/-- What only the host, the reset input and the build decide: the operand registers (R31), the parameters (R7), the script,
what the host has read, and the level `rst` had. -/
structure HostSide where
  saddr : SlaveAddr
  regsel : Byte
  wdata : Byte
  cfg : Config
  inputs : List Input
  reads : List HostRead
  resetHeld : Bool

/-- The host's side of a state. -/
def State.hostSide (s : State) : HostSide :=
  { saddr := s.saddr, regsel := s.regsel, wdata := s.wdata, cfg := s.cfg,
    inputs := s.inputs, reads := s.reads, resetHeld := s.resetHeld }

/-- Two states have the same host's side exactly where they agree on each of its fields. -/
theorem State.hostSide_eq_iff {s t : State} :
    t.hostSide = s.hostSide ↔
      t.saddr = s.saddr ∧ t.regsel = s.regsel ∧ t.wdata = s.wdata ∧ t.cfg = s.cfg ∧
      t.inputs = s.inputs ∧ t.reads = s.reads ∧ t.resetHeld = s.resetHeld := by
  simp only [State.hostSide, HostSide.mk.injEq]

/-- States with the same host's side have the same parameters. -/
theorem State.cfg_eq_of_hostSide_eq {s t : State} (h : t.hostSide = s.hostSide) : t.cfg = s.cfg :=
  congrArg HostSide.cfg h

@[simp] theorem State.hostSide_emit (e : Event) (s : State) : (s.emit e).hostSide = s.hostSide := rfl
@[simp] theorem State.hostSide_setFraming (f : Framing) (s : State) : (s.setFraming f).hostSide = s.hostSide := rfl
@[simp] theorem State.hostSide_setDcnt (n : Nat) (s : State) : (s.setDcnt n).hostSide = s.hostSide := rfl
@[simp] theorem State.hostSide_setSeq (q : Seq) (s : State) : (s.setSeq q).hostSide = s.hostSide := rfl
@[simp] theorem State.hostSide_finish (r : Option Byte) (s : State) : (s.finish r).hostSide = s.hostSide := rfl
@[simp] theorem State.hostSide_loadByte (x : Byte) (s : State) : (s.loadByte x).hostSide = s.hostSide := rfl
@[simp] theorem State.hostSide_clearByte (s : State) : s.clearByte.hostSide = s.hostSide := rfl
@[simp] theorem State.hostSide_shiftOut (s : State) : s.shiftOut.hostSide = s.hostSide := rfl
@[simp] theorem State.hostSide_shiftIn (b : Bool) (s : State) : (s.shiftIn b).hostSide = s.hostSide := rfl
@[simp] theorem State.hostSide_countBit (s : State) : s.countBit.hostSide = s.hostSide := rfl
@[simp] theorem State.hostSide_latchAck (b : Bool) (s : State) : (s.latchAck b).hostSide = s.hostSide := rfl
@[simp] theorem hostSide_accept (c : Cmd) (s : State) : (accept c s).hostSide = s.hostSide := rfl

@[simp] theorem hostSide_doUop (u : Uop) (s : State) : (doUop u s).hostSide = s.hostSide := by
  rw [doUop_frame]; rfl

@[simp] theorem State.hostSide_sampleSda (s : State) : s.sampleSda.hostSide = s.hostSide :=
  hostSide_doUop .sampleSda s

@[simp] theorem State.hostSide_storeBit (use : BitUse) (b : Bool) (s : State) :
    (s.storeBit use b).hostSide = s.hostSide := by
  cases use <;> rfl

@[simp] theorem hostSide_doMicro (m : Micro) (s : State) : (doMicro m s).hostSide = s.hostSide := by
  cases m <;> simp [doMicro]

@[simp] theorem hostSide_runMicros (ms : List Micro) (s : State) : (runMicros ms s).hostSide = s.hostSide := by
  induction ms generalizing s with
  | nil => rfl
  | cons m ms ih => simp [ih]

@[simp] theorem hostSide_callWriteBit (v : Bool) (s : State) : (callWriteBit v s).hostSide = s.hostSide :=
  hostSide_runMicros _ s

@[simp] theorem hostSide_callReadBit (s : State) : (callReadBit s).2.hostSide = s.hostSide := by
  simp [callReadBit]

@[simp] theorem hostSide_callStart (s : State) : (callStart s).hostSide = s.hostSide := hostSide_runMicros _ s

@[simp] theorem hostSide_callStop (s : State) : (callStop s).hostSide = s.hostSide := hostSide_runMicros _ s

@[simp] theorem hostSide_sendBits (n : Nat) (s : State) : (sendBits n s).hostSide = s.hostSide := by
  induction n generalizing s with
  | zero => rfl
  | succ n ih =>
    unfold sendBits
    split
    · rfl
    · simp [ih, sendBit]

@[simp] theorem hostSide_recvBits (n : Nat) (s : State) : (recvBits n s).hostSide = s.hostSide := by
  induction n generalizing s with
  | zero => rfl
  | succ n ih =>
    unfold recvBits
    split
    · rfl
    · simp [ih, recvBit]

@[simp] theorem hostSide_callWriteByte (x : Byte) (startFlag stopFlag : Bool) (s : State) :
    (callWriteByte x startFlag stopFlag s).hostSide = s.hostSide := by
  cases startFlag <;> cases stopFlag <;> simp [callWriteByte]

@[simp] theorem hostSide_callReadByte (sendAckFlag stopFlag : Bool) (s : State) :
    (callReadByte sendAckFlag stopFlag s).hostSide = s.hostSide := by
  cases stopFlag <;> simp [callReadByte]

@[simp] theorem hostSide_nakAbort (stop : Bool) (s : State) : (nakAbort stop s).hostSide = s.hostSide := by
  cases stop <;> simp [nakAbort]

theorem hostSide_procInit (s : State) : (procInit s).hostSide = s.hostSide := by
  simp [procInit]

theorem hostSide_procSendByte (s : State) : (procSendByte s).hostSide = s.hostSide := by
  simp [procSendByte, apply_ite State.hostSide]

theorem hostSide_procReceiveByte (s : State) : (procReceiveByte s).hostSide = s.hostSide := by
  simp [procReceiveByte, apply_ite State.hostSide]

theorem hostSide_procSendByteData (s : State) : (procSendByteData s).hostSide = s.hostSide := by
  simp [procSendByteData, apply_ite State.hostSide]

theorem hostSide_procReceiveByteData (s : State) : (procReceiveByteData s).hostSide = s.hostSide := by
  simp [procReceiveByteData, apply_ite State.hostSide]

/-- A command keeps the host's side where its procedure does: ignored (R161) it changes nothing, and acceptance reads the
operand registers only (R160). -/
theorem command_keepsHostSide {p : State → State} (hp : ∀ s : State, (p s).hostSide = s.hostSide) (c : Cmd) (s : State) :
    ∃ t, command c p s = .next t ∧ t.hostSide = s.hostSide := by
  obtain ⟨t, ht, ⟨-, rfl⟩ | ⟨-, rfl⟩⟩ := command_next c p s
  · exact ⟨t, ht, rfl⟩
  · exact ⟨_, ht, by rw [hp, hostSide_accept]⟩

/-- Every instruction goes on and leaves the host's side as it was (R31, R200). -/
theorem exec_keepsHostSide (i : Instr) (s : State) : ∃ t, exec i s = .next t ∧ t.hostSide = s.hostSide := by
  cases i with
  | init => exact command_keepsHostSide hostSide_procInit .init s
  | sendByte => exact command_keepsHostSide hostSide_procSendByte .sendByte s
  | receiveByte => exact command_keepsHostSide hostSide_procReceiveByte .receiveByte s
  | sendByteData => exact command_keepsHostSide hostSide_procSendByteData .sendByteData s
  | receiveByteData => exact command_keepsHostSide hostSide_procReceiveByteData .receiveByteData s
  | relScl | drvScl | relSda | drvSda | delay | sampleSda => exact ⟨_, rfl, hostSide_doUop _ s⟩
  | start => exact ⟨_, rfl, hostSide_callStart s⟩
  | stop => exact ⟨_, rfl, hostSide_callStop s⟩
  | writeBit v => exact ⟨_, rfl, hostSide_callWriteBit v s⟩
  | readBit => exact ⟨_, rfl, hostSide_callReadBit s⟩
  | writeByte x f g => exact ⟨_, rfl, hostSide_callWriteByte x f g s⟩
  | readByte f g => exact ⟨_, rfl, hostSide_callReadByte f g s⟩

/-! ## The sequencer keeps the host's side too -/

@[simp] theorem hostSide_settle (ws : List Work) (s : State) : (settle ws s).hostSide = s.hostSide := by
  rw [settle_frame]; rfl

@[simp] theorem hostSide_delayCycle (rest : List Work) (s : State) : (delayCycle rest s).hostSide = s.hostSide := by
  simp [delayCycle, apply_ite State.hostSide]

@[simp] theorem hostSide_sequencerCycle (s : State) : (sequencerCycle s).hostSide = s.hostSide := by
  unfold sequencerCycle
  split <;> simp

/-! ## No cycle and no step changes the parameters -/

theorem hostSide_writeCmd (v : Byte) (s : State) : (writeCmd v s).hostSide = s.hostSide := by
  obtain h | ⟨c, -, -, h⟩ := writeCmd_cases v s
  · rw [h]
  · rw [h, hostSide_accept]

theorem cfg_regWrite (off : Offset) (v : Byte) (s : State) : (regWrite off v s).cfg = s.cfg := by
  obtain ⟨-, h⟩ | ⟨-, h⟩ | ⟨-, h⟩ | ⟨-, h⟩ | ⟨-, -, -, -, h⟩ := regWrite_cases off v s <;> rw [h]
  · exact State.cfg_eq_of_hostSide_eq (hostSide_writeCmd v s)
  all_goals rfl

theorem cfg_hostAccess (a : Access) (s : State) : (hostAccess a s).cfg = s.cfg := by
  cases a with
  | none => rfl
  | rd off => rfl
  | wr off v => exact cfg_regWrite off v s

theorem cfg_clockCycle (a : Access) (s : State) : (clockCycle a s).cfg = s.cfg := by
  have haccess : (hostAccess a (s.setResetHeld false)).cfg = s.cfg := cfg_hostAccess a _
  unfold clockCycle
  dsimp only
  split
  · exact (State.cfg_eq_of_hostSide_eq (hostSide_sequencerCycle _)).trans haccess
  · exact haccess

theorem cfg_waitCycle (rest : List Input) (s : State) : (waitCycle rest s).cfg = s.cfg := by
  unfold waitCycle
  rw [cfg_clockCycle]
  split <;> rfl

theorem cfg_resetCycle (a : Access) (s : State) : (resetCycle a s).cfg = s.cfg := by
  cases a <;> rfl

/-- Whatever the head of the script asks, a step that goes on keeps the parameters (R9). -/
theorem step_keepsCfg {s t : State} (h : step s = .next t) : t.cfg = s.cfg := by
  obtain ⟨-, hcase⟩ := step_cases h
  obtain ⟨-, rfl⟩ | ⟨a, rest, -, rfl⟩ | ⟨rest, -, rfl⟩ | ⟨a, rest, -, rfl⟩ | ⟨w, rest, i, -, -, hexec⟩ |
    ⟨v, rest, -, -, rfl⟩ := hcase
  · exact cfg_clockCycle .none s
  · exact cfg_clockCycle a _
  · exact cfg_waitCycle rest s
  · exact cfg_resetCycle a _
  · obtain ⟨u, hu, hside⟩ := exec_keepsHostSide i (s.pastWord rest)
    obtain rfl : u = t := Host.Outcome.next.inj (hu.symm.trans hexec)
    have hpast : (s.pastWord rest).cfg = s.cfg := rfl
    exact (State.cfg_eq_of_hostSide_eq hside).trans hpast
  · rfl

/-! ## A configuration that is not a BBM -/

/-- With both lines on one pin a configuration is not a BBM (R9). -/
theorem wellFormed_eq_false_of_onePin {c : Config} (h : c.sclPin = c.sdaPin) : c.wellFormed = false := by
  simp [Config.wellFormed, h]

/-- A configuration that is not a BBM is refused before the script is looked at (R9, I3). -/
theorem step_eq_badConfig {s : State} (h : s.cfg.wellFormed = false) : step s = .refused .badConfig := by
  simp [step, h]

/-- Settles O8: a step is one of `step_cases`, and each keeps the parameters; equal pins make `Config.wellFormed` false. -/
theorem parametersAreFixedAndOnePinIsRefused : Obligations.ParametersAreFixedAndOnePinIsRefused := by
  unfold Obligations.ParametersAreFixedAndOnePinIsRefused
  exact ⟨fun _ _ => step_keepsCfg, fun _ hpins => step_eq_badConfig (wellFormed_eq_false_of_onePin hpins)⟩

end Sys2Proof.Machine
end

section
/-! PROOFS. The reset cycle (10_state.md R40, 70_reset_and_hazards.md R230, R232): what it leaves of the block and of the
world around it, whatever the state and whatever the host access. -/

namespace Sys2Proof.Machine

open Sys2Proof

/-! ## Every element of the block at its reset value -/

/-- The block at its reset values (R40) but for its trace, which alone outlives a reset (R24). -/
def Block.resetWithTrace (tr : List Event) : Block := { Block.reset with trace := tr }

/-- Whatever the host access, a reset cycle leaves the block at its reset values, with at most a `Reset` added to the trace
(R230). -/
theorem resetCycle_toBlock (a : Access) (s : State) :
    (resetCycle a s).toBlock =
      Block.resetWithTrace (if s.resetHeld then s.trace else s.trace ++ [.reset]) := by
  cases a <;> rfl

/-- Where the block is at its reset values STATUS reads 0x00: not busy, and the bus idle (R32). -/
theorem State.status_of_resetBlock {s : State} {tr : List Event} (h : s.toBlock = Block.resetWithTrace tr) :
    s.status = 0x00 := by
  simp [State.status, State.busActive, h, Block.resetWithTrace]

/-- Where the block is at its reset values every offset of the host register space reads 0x00 (R53). -/
theorem State.regRead_of_resetBlock {s : State} {tr : List Event} (h : s.toBlock = Block.resetWithTrace tr)
    (off : Offset) : s.regRead off = 0x00 := by
  simp [State.regRead, State.status_of_resetBlock h, h, Block.resetWithTrace]

/-! ## The world around the block -/

/-- What a host access in a reset cycle records: a read returns the reset value (R230). -/
def readsInReset : Access → List HostRead
  | .rd off => [{ off := off, value := 0x00 }]
  | .none | .wr _ _ => []

/-- A reset cycle leaves the world around the block as it was, but for the level of `rst` and what the host has read. -/
theorem resetCycle_toWorld (a : Access) (s : State) :
    (resetCycle a s).toWorld = { s.toWorld with resetHeld := true, reads := s.reads ++ readsInReset a } := by
  cases a with
  | rd off =>
    have hread : s.resetFields.regRead off = 0x00 := State.regRead_of_resetBlock (resetCycle_toBlock .none s) off
    simp only [resetCycle, hread]
    rfl
  | none | wr => simp [resetCycle, readsInReset, State.resetFields]

/-! ## The step -/

/-- A step with a reset cycle at the head of the script performs that cycle. -/
theorem step_eq_resetCycle {s : State} {a : Access} {rest : List Input} (hwf : s.cfg.wellFormed = true)
    (hin : s.inputs = .rst a :: rest) : step s = .next (resetCycle a (s.setInputs rest)) := by
  simp [step, hwf, fetch, hin]

/-- Settles O11: the step is the reset cycle, which leaves the block at its reset values but for the trace, and the world
as it was but for `rst` and the read. -/
theorem resetCycleSetsEveryElement : Obligations.ResetCycleSetsEveryElement := by
  unfold Obligations.ResetCycleSetsEveryElement
  intro s a rest hwf hin
  have hblock := resetCycle_toBlock a (s.setInputs rest)
  have hworld := resetCycle_toWorld a (s.setInputs rest)
  have hregs := State.regRead_of_resetBlock hblock
  refine ⟨_, step_eq_resetCycle hwf hin, ?_⟩
  -- The access decides nothing but the last clause, what the host has read.
  cases a <;> simp [hblock, hworld, hregs, readsInReset, State.lines, Lines.released, Block.resetWithTrace]

end Sys2Proof.Machine
end

section
/-! PROOFS. The address byte (30_encoding.md R76): the address shifted left by one bit with the direction in the freed bit. -/

namespace Sys2Proof.Machine

open Sys2Proof

/-- No bit of the address is lost: it keeps all 7 bits, one place up, and the direction takes bit 0 (R76). -/
theorem addrByte_eq_append (a : SlaveAddr) (rw : Bool) : addrByte a rw = a ++ BitVec.ofBool rw := by
  apply BitVec.eq_of_getLsbD_eq
  intro i hi
  rw [BitVec.getLsbD_append]
  cases i with
  | zero => simp [addrByte]
  | succ j =>
    have hj : j < 7 := by omega
    simp [addrByte, hi, hj]

/-- The address byte as a number: twice the address, plus the direction. -/
theorem toNat_addrByte (a : SlaveAddr) (rw : Bool) : (addrByte a rw).toNat = 2 * a.toNat + rw.toNat := by
  rw [addrByte_eq_append, BitVec.toNat_append, BitVec.toNat_ofBool,
    ← Nat.shiftLeft_add_eq_or_of_lt (Bool.toNat_lt rw), Nat.shiftLeft_eq]
  omega

/-- Bit 0 of the address byte is the direction. -/
theorem getLsbD_zero_addrByte (a : SlaveAddr) (rw : Bool) : (addrByte a rw).getLsbD 0 = rw := by
  rw [addrByte_eq_append, BitVec.getLsbD_append]
  simp

/-- The address byte of a read is the one of a write plus 1. -/
theorem addrByte_true (a : SlaveAddr) : addrByte a true = addrByte a false + 1 := by
  have hread := toNat_addrByte a true
  have hwrite := toNat_addrByte a false
  simp only [Bool.toNat_true, Bool.toNat_false] at hread hwrite
  bv_omega

/-- Settles O40: the byte is the append, so its bit 0 is the direction, and as numbers the two directions differ by 1. -/
theorem addressByteIsAddressThenDirection : Obligations.AddressByteIsAddressThenDirection := by
  unfold Obligations.AddressByteIsAddressThenDirection
  intro a rw
  exact ⟨addrByte_eq_append a rw, getLsbD_zero_addrByte a false, addrByte_true a⟩

end Sys2Proof.Machine
end

section
/-! PROOFS. The line uops (40_line_primitives.md R101 to R104): the driver bit each one sets, and the level its line then
has (10_state.md R22). -/

namespace Sys2Proof.Machine

open Sys2Proof

/-! ## The level of a line, from its driver bit -/

/-- A released line follows the environment (R22). -/
@[simp] theorem lineLevel_released (envLevel : Bool) : lineLevel false envLevel = envLevel := rfl

/-- A driven line is at 0, whatever the environment contributes (R22). -/
@[simp] theorem lineLevel_driven (envLevel : Bool) : lineLevel true envLevel = false := rfl

theorem State.sclLevel_of_released {s : State} (h : s.sclOe = false) (envScl : Bool) : s.sclLevel envScl = envScl := by
  rw [State.sclLevel, h, lineLevel_released]

theorem State.sclLevel_of_driven {s : State} (h : s.sclOe = true) (envScl : Bool) : s.sclLevel envScl = false := by
  rw [State.sclLevel, h, lineLevel_driven]

theorem State.sdaLevel_of_released {s : State} (h : s.sdaOe = false) (envSda : Bool) : s.sdaLevel envSda = envSda := by
  rw [State.sdaLevel, h, lineLevel_released]

theorem State.sdaLevel_of_driven {s : State} (h : s.sdaOe = true) (envSda : Bool) : s.sdaLevel envSda = false := by
  rw [State.sdaLevel, h, lineLevel_driven]

/-! ## The meaning of each line uop, as updates of the state -/

theorem exec_relScl (s : State) : exec .relScl s = .next ((s.setScl false).emit .relScl) := rfl

theorem exec_drvScl (s : State) : exec .drvScl s = .next ((s.setScl true).emit .drvScl) := rfl

theorem exec_relSda (s : State) : exec .relSda s = .next ((s.setSda false).emit .relSda) := rfl

theorem exec_drvSda (s : State) : exec .drvSda s = .next ((s.setSda true).emit .drvSda) := rfl

/-- An instruction has one next state at most. -/
theorem exec_next_unique {i : Instr} {s t u : State} (ht : exec i s = .next t) (hu : exec i s = .next u) : t = u :=
  Host.Outcome.next.inj (ht.symm.trans hu)

/-- Settles O24: each line uop is one driver update and one event, and its line's level follows from the driver bit of the
only state it can go on to. -/
theorem lineUopsSetTheirDriverOnly : Obligations.LineUopsSetTheirDriverOnly := by
  unfold Obligations.LineUopsSetTheirDriverOnly
  refine ⟨rfl, rfl, rfl, rfl, fun s =>
    ⟨exec_relScl s, exec_drvScl s, exec_relSda s, exec_drvSda s, ?relScl, ?drvScl, ?relSda, ?drvSda⟩⟩
  case relScl =>
    intro t e ht
    obtain rfl := exec_next_unique ht (exec_relScl s)
    exact State.sclLevel_of_released (by simp) e
  case drvScl =>
    intro t e ht
    obtain rfl := exec_next_unique ht (exec_drvScl s)
    exact State.sclLevel_of_driven (by simp) e
  case relSda =>
    intro t e ht
    obtain rfl := exec_next_unique ht (exec_relSda s)
    exact State.sdaLevel_of_released (by simp) e
  case drvSda =>
    intro t e ht
    obtain rfl := exec_next_unique ht (exec_drvSda s)
    exact State.sdaLevel_of_driven (by simp) e

end Sys2Proof.Machine
end

section
/-! PROOFS. START and STOP (41_framing.md R120, R122, R125): each as one update of the state, the bus conditions it makes,
and the cycle of the sequencer in which it moves the framing. -/

namespace Sys2Proof.Machine

open Sys2Proof

/-! ## START and STOP to their end -/

/-- What START leaves, in every state and whatever the framing was (R120). -/
theorem callStart_eq (s : State) :
    callStart s = { s with sclOe := true, sdaOe := true, framing := .active, dcnt := 0,
                           trace := s.trace ++ startEvents } := by
  simp only [callStart, startMicros, runMicros_cons, runMicros_nil, doMicro, doUop, State.delayUop_eq]
  ext <;> simp [startEvents]

/-- What STOP leaves, in every state and whatever the framing was (R122). -/
theorem callStop_eq (s : State) :
    callStop s = { s with sclOe := false, sdaOe := false, framing := .idle, dcnt := 0,
                          trace := s.trace ++ stopEvents } := by
  simp only [callStop, stopMicros, runMicros_cons, runMicros_nil, doMicro, doUop, State.delayUop_eq]
  ext <;> simp [stopEvents]

theorem exec_start (s : State) : exec .start s = .next (callStart s) := rfl

theorem exec_stop (s : State) : exec .stop s = .next (callStop s) := rfl

/-! ## The conditions on the bus -/

/-- The driver states after a list of events (R24). -/
def Lines.afterAll (l : Lines) (es : List Event) : Lines := es.foldl Lines.after l

/-- The conditions of two lists of events in a row: the second list begins where the first leaves the drivers. -/
theorem conditionsFrom_append (n : Nat) (l : Lines) (es fs : List Event) :
    conditionsFrom n l (es ++ fs) =
      conditionsFrom n l es ++ conditionsFrom (n + es.length) (l.afterAll es) fs := by
  induction es generalizing n l with
  | nil => rfl
  | cons e es ih =>
    have hpos : n + 1 + es.length = n + (es.length + 1) := by omega
    simp [conditionsFrom, ih, hpos, Lines.afterAll]

/-- START leaves both lines driven, wherever it began (R120). -/
theorem Lines.afterAll_startEvents (l : Lines) : l.afterAll startEvents = { sclOe := true, sdaOe := true } := rfl

/-- From both lines released START makes its start condition and nothing else (R120). -/
theorem conditionsFrom_startEvents_released (n : Nat) : conditionsFrom n Lines.released startEvents = [.start] := rfl

/-- From both lines driven the releases of START make a stop condition first (R120). -/
theorem conditionsFrom_startEvents_driven (n : Nat) :
    conditionsFrom n { sclOe := true, sdaOe := true } startEvents = [.stop, .start] := rfl

/-- From both lines released the first DRV_SDA of STOP makes a start condition (R122). -/
theorem conditionsFrom_stopEvents_released (n : Nat) :
    conditionsFrom n Lines.released stopEvents = [.start, .stop] := rfl

/-- With both lines driven, as START leaves them, STOP makes its stop condition and nothing else (R125). -/
theorem conditionsFrom_stopEvents_driven (n : Nat) :
    conditionsFrom n { sclOe := true, sdaOe := true } stopEvents = [.stop] := rfl

/-- START followed by STOP, from both lines released: a start condition, then a stop condition (R125). -/
theorem conditionsFrom_startEvents_stopEvents (n : Nat) :
    conditionsFrom n Lines.released (startEvents ++ stopEvents) = [.start, .stop] := by
  rw [conditionsFrom_append, conditionsFrom_startEvents_released, Lines.afterAll_startEvents,
    conditionsFrom_stopEvents_driven]
  rfl

/-! ## One cycle of a running command with the host idle -/

/-- With the host idle and `rst` low before, a step of a busy block is one cycle of the sequencer (R111). -/
theorem step_eq_sequencerCycle {s : State} (hwf : s.cfg.wellFormed = true) (hbusy : s.busy = true)
    (hin : s.inputs = []) (hrst : s.resetHeld = false) : step s = .next (sequencerCycle s) := by
  simp [step, hwf, fetch, hin, clockCycle, hostAccess, State.setResetHeld_eq_self hrst, hbusy]

/-- A uop that is no DELAY takes one cycle, and the sequencer settles at the work behind it (R241). -/
theorem sequencerCycle_uop {s : State} {u : Uop} {ws : List Work} (hu : u ≠ .delay)
    (hseq : s.seq = .at (.micro (.uop u) :: ws)) : sequencerCycle s = settle ws (doUop u s) := by
  cases u with
  | delay => exact absurd rfl hu
  | relScl | drvScl | relSda | drvSda | sampleSda => simp only [sequencerCycle, hseq]

/-- A framing change takes no cycle of its own: it is over where the uop behind it begins (R120, R122). -/
theorem settle_framing_uop (f : Framing) (v : Uop) (ws : List Work) (s : State) :
    settle (.micro (.framing f) :: .micro (.uop v) :: ws) s =
      (s.setFraming f).setSeq (.at (.micro (.uop v) :: ws)) := rfl

/-- The framing moves in the cycle of the uop before it (R120, R122). -/
theorem step_uop_framing {s : State} {u v : Uop} {f : Framing} {ws : List Work}
    (hwf : s.cfg.wellFormed = true) (hbusy : s.busy = true) (hin : s.inputs = []) (hrst : s.resetHeld = false)
    (hu : u ≠ .delay) (hseq : s.seq = .at (.micro (.uop u) :: .micro (.framing f) :: .micro (.uop v) :: ws)) :
    step s = .next (((doUop u s).setFraming f).setSeq (.at (.micro (.uop v) :: ws))) := by
  rw [step_eq_sequencerCycle hwf hbusy hin hrst, sequencerCycle_uop hu hseq, settle_framing_uop]

/-! ## The statements -/

/-- Settles O30: STOP begins with both lines driven, where START ends, so each makes its one condition and no other. -/
theorem startThenStopLeavesTheBusIdle : Obligations.StartThenStopLeavesTheBusIdle := by
  unfold Obligations.StartThenStopLeavesTheBusIdle
  intro s n hlines
  refine ⟨_, _, exec_start s, exec_stop _, ?lines, ?framing, ?trace, ?conditions⟩
  case lines => rw [callStop_eq]; rfl
  case framing => rw [callStop_eq]
  case trace => simp [callStop_eq, callStart_eq]
  case conditions => rw [hlines, conditionsFrom_startEvents_stopEvents]

/-- Settles O28: the whole of START is `callStart_eq`, and in the sequencer ACTIVE stands directly behind the DRV_SDA. -/
theorem startIssuesAStartCondition : Obligations.StartIssuesAStartCondition := by
  unfold Obligations.StartIssuesAStartCondition
  refine ⟨rfl, ?meaning, conditionsFrom_startEvents_driven, ?cycle⟩
  case meaning => exact fun s => by rw [exec_start, callStart_eq]
  case cycle => exact fun s ws hwf hbusy hin hrst hseq => step_uop_framing hwf hbusy hin hrst (by decide) hseq

/-- Settles O29: the whole of STOP is `callStop_eq`, and in the sequencer IDLE stands directly behind the REL_SDA. -/
theorem stopIssuesAStopCondition : Obligations.StopIssuesAStopCondition := by
  unfold Obligations.StopIssuesAStopCondition
  refine ⟨rfl, ?meaning, conditionsFrom_stopEvents_released, ?cycle⟩
  case meaning => exact fun s => by rw [exec_stop, callStop_eq]
  case cycle => exact fun s ws hwf hbusy hin hrst hseq => step_uop_framing hwf hbusy hin hrst (by decide) hseq

end Sys2Proof.Machine
end

section
/-! PROOFS. The bit primitives (42_bit_transfer.md R130 to R132): each as one update of the state, and why neither makes a
bus condition where it begins with SCL driven. -/

namespace Sys2Proof.Machine

open Sys2Proof

/-! ## WRITE_BIT and READ_BIT to their end -/

/-- The driver update a WRITE_BIT begins with: a 1 releases SDA, a 0 drives it low (R130). -/
theorem doUop_sdaUop (v : Bool) (s : State) :
    doUop (if v then .relSda else .drvSda) s = (s.setSda (!v)).emit (if v then .relSda else .drvSda) := by
  cases v <;> rfl

/-- What WRITE_BIT leaves, in every state (R130). -/
theorem callWriteBit_eq (v : Bool) (s : State) :
    callWriteBit v s = { s with sclOe := true, sdaOe := !v, dcnt := 0, trace := s.trace ++ writeBitEvents v } := by
  simp only [callWriteBit, writeBitMicros, runMicros_cons, runMicros_nil, doMicro, doUop_sdaUop]
  simp only [doUop, State.delayUop_eq]
  ext <;> simp [writeBitEvents]

/-- READ_BIT up to its sample, which finds both lines released (R131). -/
theorem runMicros_readBitMicros (s : State) :
    runMicros readBitMicros s = { s with sclOe := false, sdaOe := false, dcnt := 0,
                                         trace := s.trace ++ [.relSda, .delay, .relScl, .delay] } := by
  simp only [readBitMicros, runMicros_cons, runMicros_nil, doMicro, doUop, State.delayUop_eq]
  ext <;> simp

/-- What READ_BIT returns and leaves, in every state: SDA is released at the sample, so the bit is the next draw (R131). -/
theorem callReadBit_eq (s : State) :
    callReadBit s = (s.nextDraw 0,
      { s with sclOe := true, sdaOe := false, dcnt := 0, draws := s.draws.drop 1, drawn := s.drawn + 1,
               trace := s.trace ++ readBitEvents (s.nextDraw 0) }) := by
  have hreleased : (runMicros readBitMicros s).sdaOe = false := by rw [runMicros_readBitMicros]
  have hdraw : (runMicros readBitMicros s).nextDraw 0 = s.nextDraw 0 := by rw [runMicros_readBitMicros]; rfl
  obtain ⟨hbit, hsample⟩ := State.sampleSda_released hreleased
  simp only [callReadBit, hbit, hsample, hdraw, doUop]
  rw [runMicros_readBitMicros]
  refine Prod.ext rfl ?_
  ext <;> simp [readBitEvents]

theorem exec_writeBit (v : Bool) (s : State) : exec (.writeBit v) s = .next (callWriteBit v s) := rfl

theorem exec_readBit (s : State) : exec .readBit s = .next (callReadBit s).2 := rfl

/-! ## Events that create no bus condition -/

/-- Only a change of SDA or a reset can create a condition (R112). -/
theorem conditionOf_eq_none {e : Event} (hrel : e ≠ .relSda) (hdrv : e ≠ .drvSda) (hreset : e ≠ .reset) (n : Nat)
    (l : Lines) : conditionOf n l e = none := by
  cases e with
  | relSda => exact absurd rfl hrel
  | drvSda => exact absurd rfl hdrv
  | reset => exact absurd rfl hreset
  | relScl | drvScl | delay | sample | cmd | done => rfl

/-- Events with no SDA uop and no reset among them create no condition, wherever the drivers stand (R112). -/
theorem conditionsFrom_eq_nil {es : List Event} (hrel : .relSda ∉ es) (hdrv : .drvSda ∉ es) (hreset : .reset ∉ es)
    (n : Nat) (l : Lines) : conditionsFrom n l es = [] := by
  induction es generalizing n l with
  | nil => rfl
  | cons e es ih =>
    obtain ⟨hrelHead, hrelTail⟩ := List.ne_and_not_mem_of_not_mem_cons hrel
    obtain ⟨hdrvHead, hdrvTail⟩ := List.ne_and_not_mem_of_not_mem_cons hdrv
    obtain ⟨hresetHead, hresetTail⟩ := List.ne_and_not_mem_of_not_mem_cons hreset
    rw [conditionsFrom, conditionOf_eq_none hrelHead.symm hdrvHead.symm hresetHead.symm,
      ih hrelTail hdrvTail hresetTail]
    rfl

/-- A release or a drive of SDA while the BBM drives SCL is no condition (R112). -/
theorem conditionOf_sdaUop_of_sclDriven {l : Lines} (hscl : l.sclOe = true) (v : Bool) (n : Nat) :
    conditionOf n l (if v then .relSda else .drvSda) = none := by
  cases v <;> simp [conditionOf, hscl]

/-- One SDA uop with SCL driven, and after it neither an SDA uop nor a reset: no condition, although SCL may be released
later on (R132). -/
theorem conditionsFrom_sdaUop_cons_eq_nil {l : Lines} (hscl : l.sclOe = true) (v : Bool) {es : List Event}
    (hrel : .relSda ∉ es) (hdrv : .drvSda ∉ es) (hreset : .reset ∉ es) (n : Nat) :
    conditionsFrom n l ((if v then .relSda else .drvSda) :: es) = [] := by
  rw [conditionsFrom, conditionOf_sdaUop_of_sclDriven hscl, conditionsFrom_eq_nil hrel hdrv hreset]
  rfl

/-! ## The statements -/

/-- Settles O32: the whole of WRITE_BIT is `callWriteBit_eq`. -/
theorem writeBitClocksOneBitOut : Obligations.WriteBitClocksOneBitOut := by
  unfold Obligations.WriteBitClocksOneBitOut
  refine fun s v => ⟨?encoding, ?meaning⟩
  case encoding => cases v <;> rfl
  case meaning => rw [exec_writeBit, callWriteBit_eq]

/-- Settles O33: the bit and the whole of READ_BIT are `callReadBit_eq`. -/
theorem readBitClocksOneBitIn : Obligations.ReadBitClocksOneBitIn := by
  unfold Obligations.ReadBitClocksOneBitIn
  refine ⟨rfl, fun s => ⟨?bit, ?meaning⟩⟩
  case bit => rw [callReadBit_eq]
  case meaning => rw [exec_readBit, callReadBit_eq]

/-- Settles O34: behind the SDA uop that opens the primitive, with SCL still driven, no event touches SDA. -/
theorem bitPrimitivesCreateNoCondition : Obligations.BitPrimitivesCreateNoCondition := by
  unfold Obligations.BitPrimitivesCreateNoCondition
  intro s n hscl
  refine ⟨fun v => ⟨_, [.delay, .relScl, .delay, .drvScl, .delay], exec_writeBit v s, ?writeTrace, by decide, by decide,
      ?writeConditions⟩,
    ⟨_, [.delay, .relScl, .delay, .sample (s.nextDraw 0), .drvScl], exec_readBit s, ?readTrace, by simp, by simp,
      ?readConditions⟩⟩
  case writeTrace => rw [callWriteBit_eq, writeBitEvents]
  case writeConditions => exact conditionsFrom_sdaUop_cons_eq_nil hscl v (by decide) (by decide) (by decide) n
  case readTrace => rw [callReadBit_eq, readBitEvents]
  case readConditions => exact conditionsFrom_sdaUop_cons_eq_nil hscl true (by simp) (by simp) (by simp) n

end Sys2Proof.Machine
end

section
/-! PROOFS. The shift register and the byte primitives (43_byte_transfer.md R140 to R145): what eight shifts do, the two bit
loops by induction on the turns that BITCNT leaves, and WRITE_BYTE and READ_BYTE each as one update of the state. -/

namespace Sys2Proof.Machine

open Sys2Proof

/-! ## The shift register -/

@[simp] theorem length_byteBits (x : Byte) : (byteBits x).length = 8 := rfl

/-- A shift to the left drops the most significant bit, and the bit put in comes last (R140). -/
theorem byteBits_shiftLeft_or (x : Byte) (b : Bool) :
    byteBits ((x <<< 1) ||| (BitVec.ofBool b).zeroExtend 8) = (byteBits x).tail ++ [b] := by
  simp [byteBits]

/-- ShiftOut drops the bit it returned, and a 0 comes last (R140). -/
theorem byteBits_shiftLeft (x : Byte) : byteBits (x <<< 1) = (byteBits x).tail ++ [false] := by
  simp [byteBits]

/-- ShiftIn keeps bits 6:0 one place up and puts the new bit at bit 0 (R140). -/
theorem shiftLeft_or_eq_append (x : Byte) (b : Bool) :
    (x <<< 1) ||| (BitVec.ofBool b).zeroExtend 8 = x.extractLsb' 0 7 ++ BitVec.ofBool b := by
  apply BitVec.eq_of_getLsbD_eq
  intro i hi
  rw [BitVec.getLsbD_append]
  cases i with
  | zero => simp
  | succ j =>
    have hj : j < 7 := by omega
    simp [hi, hj, -BitVec.getLsbD_eq_getElem]

/-- The shift register from `x` on, after these bits are shifted in, the first of the list first (R140). -/
def shiftedIn (x : Byte) (bs : List Bool) : Byte :=
  bs.foldl (fun y b => (y <<< 1) ||| (BitVec.ofBool b).zeroExtend 8) x

@[simp] theorem shiftedIn_nil (x : Byte) : shiftedIn x [] = x := rfl

@[simp] theorem shiftedIn_cons (x : Byte) (b : Bool) (bs : List Bool) :
    shiftedIn x (b :: bs) = shiftedIn ((x <<< 1) ||| (BitVec.ofBool b).zeroExtend 8) bs := rfl

/-- From a cleared register, the value of the bits received (R140). -/
theorem shiftedIn_zero (bs : List Bool) : shiftedIn 0 bs = bitsByte bs := rfl

/-- ShiftIn of one bit after another reaches `SR` as the bits shifted in (R140). -/
theorem State.sr_foldl_shiftIn (bs : List Bool) (s : State) :
    (bs.foldl (fun t b => t.shiftIn b) s).sr = shiftedIn s.sr bs := by
  induction bs generalizing s with
  | nil => rfl
  | cons b bs ih => simp [ih]

/-- The register is the end of a line of bits: each bit shifted in at its right pushes the first one out. -/
theorem byteBits_shiftedIn (x : Byte) (bs : List Bool) :
    byteBits (shiftedIn x bs) = (byteBits x ++ bs).drop bs.length := by
  induction bs generalizing x with
  | nil => simp
  | cons b bs ih =>
    rw [shiftedIn_cons, ih, byteBits_shiftLeft_or]
    simp [byteBits]

/-- Eight bits shifted in stand in the register most significant first, with nothing left of what it held (R140). -/
theorem byteBits_bitsByte {bs : List Bool} (h : bs.length = 8) : byteBits (bitsByte bs) = bs := by
  rw [← shiftedIn_zero, byteBits_shiftedIn, List.drop_left' (by rw [length_byteBits, h])]

/-- After `k` ShiftOut the register is shifted left by `k` places (R140). -/
theorem State.sr_iterate_shiftOut (k : Nat) (s : State) : (State.shiftOut^[k] s).sr = s.sr <<< k := by
  induction k with
  | zero => simp
  | succ k ih => rw [Function.iterate_succ_apply', State.shiftOut_sr, ih, ← BitVec.shiftLeft_add]

/-- The bit at the top of the register after `k` shifts is bit `7 - k` (R140). -/
theorem getLsbD_seven_shiftLeft {k : Nat} (hk : k ≤ 7) (x : Byte) : (x <<< k).getLsbD 7 = x.getLsbD (7 - k) := by
  simp [Nat.not_lt.mpr hk, -BitVec.getLsbD_eq_getElem]

/-- ShiftOut number `k` returns bit `7 - k` (R140). -/
theorem State.outBit_iterate_shiftOut {k : Nat} (hk : k ≤ 7) (s : State) :
    (State.shiftOut^[k] s).outBit = s.sr.getLsbD (7 - k) := by
  rw [State.outBit, State.sr_iterate_shiftOut, getLsbD_seven_shiftLeft hk]

/-! ## The bit loops -/

/-- With `n + 1` turns left BITCNT has not reached 8, and a turn leaves `n` (R141). -/
theorem bitcnt_of_turns_left {c : BitVec 4} {n : Nat} (h : c.toNat + (n + 1) = 8) : c ≠ 8 ∧ (c + 1).toNat + n = 8 := by
  bv_omega

/-- What one turn of WRITE_BYTE's loop leaves, in every state (R143). -/
theorem sendBit_eq (s : State) :
    sendBit s = { s with sclOe := true, sdaOe := !s.outBit, sr := s.sr <<< 1, bitcnt := s.bitcnt + 1, dcnt := 0,
                         trace := s.trace ++ writeBitEvents s.outBit } := by
  rw [sendBit, callWriteBit_eq]
  rfl

/-- What one turn of READ_BYTE's loop leaves, in every state (R144). -/
theorem recvBit_eq (s : State) :
    recvBit s = { s with sclOe := true, sdaOe := false, sr := shiftedIn s.sr [s.nextDraw 0], bitcnt := s.bitcnt + 1,
                         dcnt := 0, draws := s.draws.drop 1, drawn := s.drawn + 1,
                         trace := s.trace ++ readBitEvents (s.nextDraw 0) } := by
  rw [recvBit, callReadBit_eq]
  rfl

/-- A turn of READ_BYTE's loop takes one draw (R144). -/
theorem nextDraws_recvBit (s : State) (k n : Nat) : (recvBit s).nextDraws k n = s.nextDraws (k + 1) n := by
  have hdraw (j : Nat) : (recvBit s).nextDraw j = s.nextDraw (j + 1) := by
    have hdraws : (recvBit s).draws = s.takeDraw.draws := by rw [recvBit_eq, State.takeDraw_draws, List.drop_one]
    have hdrawn : (recvBit s).drawn = s.takeDraw.drawn := by rw [recvBit_eq, State.takeDraw_drawn]
    rw [State.nextDraw_congr hdraws hdrawn, State.nextDraw_takeDraw]
  simp only [State.nextDraws, hdraw, Nat.add_right_comm]

theorem sendBits_of_turns_left {s : State} {n : Nat} (h : s.bitcnt.toNat + (n + 1) = 8) :
    sendBits (n + 1) s = sendBits n (sendBit s) :=
  if_neg (bitcnt_of_turns_left h).1

theorem recvBits_of_turns_left {s : State} {n : Nat} (h : s.bitcnt.toNat + (n + 1) = 8) :
    recvBits (n + 1) s = recvBits n (recvBit s) :=
  if_neg (bitcnt_of_turns_left h).1

/-- The first `n + 1` bits of a register: bit 7, then the first `n` of the register shifted. -/
theorem take_byteBits_succ {n : Nat} (hn : n ≤ 7) (x : Byte) :
    (byteBits x).take (n + 1) = x.getLsbD 7 :: (byteBits (x <<< 1)).take n := by
  rw [byteBits_shiftLeft, List.take_append_of_le_length (by simpa using hn)]
  rfl

/-- What the rest of WRITE_BYTE's loop leaves with `n + 1` turns to go: as many of the first bits of `SR` are sent (R143). -/
theorem sendBits_eq (n : Nat) (s : State) (h : s.bitcnt.toNat + (n + 1) = 8) :
    sendBits (n + 1) s =
      { s with sclOe := true, sdaOe := !(s.sr <<< n).getLsbD 7, sr := s.sr <<< (n + 1), bitcnt := 8, dcnt := 0,
               trace := s.trace ++ ((byteBits s.sr).take (n + 1)).flatMap writeBitEvents } := by
  rw [sendBits_of_turns_left h]
  induction n generalizing s with
  | zero =>
    have hcount : s.bitcnt + 1 = 8 := by bv_omega
    rw [sendBits, sendBit_eq, hcount]
    simp [State.outBit, byteBits]
  | succ n ih =>
    have hturn : (sendBit s).bitcnt.toNat + (n + 1) = 8 := by rw [sendBit_eq]; exact (bitcnt_of_turns_left h).2
    have hn : n + 1 ≤ 7 := by omega
    rw [sendBits_of_turns_left hturn, ih _ hturn, sendBit_eq, take_byteBits_succ hn]
    simp [← BitVec.shiftLeft_add, State.outBit, Nat.add_comm]

/-- What the rest of READ_BYTE's loop leaves with `n + 1` turns to go: as many draws are taken and shifted in (R144). -/
theorem recvBits_eq (n : Nat) (s : State) (h : s.bitcnt.toNat + (n + 1) = 8) :
    recvBits (n + 1) s =
      { s with sclOe := true, sdaOe := false, sr := shiftedIn s.sr (s.nextDraws 0 (n + 1)), bitcnt := 8, dcnt := 0,
               draws := s.draws.drop (n + 1), drawn := s.drawn + (n + 1),
               trace := s.trace ++ (s.nextDraws 0 (n + 1)).flatMap readBitEvents } := by
  rw [recvBits_of_turns_left h]
  induction n generalizing s with
  | zero =>
    have hcount : s.bitcnt + 1 = 8 := by bv_omega
    rw [recvBits, recvBit_eq, hcount]
    simp [State.nextDraws]
  | succ n ih =>
    have hturn : (recvBit s).bitcnt.toNat + (n + 1) = 8 := by rw [recvBit_eq]; exact (bitcnt_of_turns_left h).2
    rw [recvBits_of_turns_left hturn, ih _ hturn, nextDraws_recvBit, recvBit_eq, State.nextDraws_succ s 0 (n + 1)]
    simp [Nat.add_comm, Nat.add_left_comm]

/-- What WRITE_BYTE's loop leaves: every bit of the byte is sent, the most significant first (R143). -/
theorem sendBits_loadByte (x : Byte) (s : State) :
    sendBits 8 (s.loadByte x) =
      { s with sclOe := true, sdaOe := !x.getLsbD 0, sr := 0x00, bitcnt := 8, dcnt := 0,
               trace := s.trace ++ (byteBits x).flatMap writeBitEvents } := by
  rw [sendBits_eq 7 _ rfl, State.loadByte_sr, getLsbD_seven_shiftLeft le_rfl, BitVec.shiftLeft_eq_zero le_rfl]
  rfl

/-- What READ_BYTE's loop leaves: `SR` is the value of eight draws (R144). -/
theorem recvBits_clearByte (s : State) :
    recvBits 8 s.clearByte =
      { s with sclOe := true, sdaOe := false, sr := bitsByte (s.nextDraws 0 8), bitcnt := 8, dcnt := 0,
               draws := s.draws.drop 8, drawn := s.drawn + 8,
               trace := s.trace ++ (s.nextDraws 0 8).flatMap readBitEvents } :=
  recvBits_eq 7 s.clearByte rfl

/-! ## WRITE_BYTE and READ_BYTE to their end -/

/-- What WRITE_BYTE leaves, in every state (R143). -/
theorem callWriteByte_eq (x : Byte) (startFlag stopFlag : Bool) (s : State) :
    callWriteByte x startFlag stopFlag s =
      { s with
        sclOe := !stopFlag, sdaOe := false,
        framing := if stopFlag then .idle else if startFlag then .active else s.framing,
        sr := 0x00, bitcnt := 8, ackb := s.nextDraw 0, dcnt := 0,
        draws := s.draws.drop 1, drawn := s.drawn + 1,
        trace := s.trace ++ writeByteEvents x startFlag stopFlag (s.nextDraw 0) } := by
  cases startFlag <;> cases stopFlag <;>
    simp [callWriteByte, sendBits_loadByte, callReadBit_eq, callStart_eq, callStop_eq, State.latchAck, State.nextDraw,
      writeByteEvents]

/-- What READ_BYTE leaves, in every state (R144, R145). -/
theorem callReadByte_eq (sendAckFlag stopFlag : Bool) (s : State) :
    callReadByte sendAckFlag stopFlag s =
      { s with
        sclOe := !stopFlag, sdaOe := if stopFlag then false else sendAckFlag,
        framing := if stopFlag then .idle else s.framing,
        sr := bitsByte (s.nextDraws 0 8), bitcnt := 8, dcnt := 0,
        draws := s.draws.drop 8, drawn := s.drawn + 8,
        trace := s.trace ++ readByteEvents (s.nextDraws 0 8) sendAckFlag stopFlag } := by
  cases stopFlag <;>
    simp [callReadByte, recvBits_clearByte, callWriteBit_eq, callStop_eq, readByteEvents]

theorem exec_writeByte (x : Byte) (startFlag stopFlag : Bool) (s : State) :
    exec (.writeByte x startFlag stopFlag) s = .next (callWriteByte x startFlag stopFlag s) := rfl

theorem exec_readByte (sendAckFlag stopFlag : Bool) (s : State) :
    exec (.readByte sendAckFlag stopFlag) s = .next (callReadByte sendAckFlag stopFlag s) := rfl

/-! ## Encodings and uop counts -/

/-- The byte field of a PRIM word is its low byte, so it can be put in by an OR (R75). -/
theorem primWord_eq_or (k : BitVec 4) (f g : Bool) (b : Byte) :
    primWord k f g b = primWord k f g 0 ||| b.zeroExtend 16 := by
  apply BitVec.eq_of_getLsbD_eq
  intro i hi
  simp only [primWord, BitVec.getLsbD_or, BitVec.getLsbD_append]
  by_cases hb : i < 8
  · have hg : i < 9 := by omega
    have hf : i < 10 := by omega
    have hk : i < 12 := by omega
    simp [hb, hg, hf, hk, hi]
  · simp [hb, BitVec.getLsbD_of_ge b i (Nat.le_of_not_lt hb)]

@[simp] theorem length_writeBitEvents (v : Bool) : (writeBitEvents v).length = 6 := rfl

@[simp] theorem length_readBitEvents (b : Bool) : (readBitEvents b).length = 6 := rfl

/-- Six uops a bit, eight data bits and the ninth, and those of START and STOP where a flag asks for them (R143). -/
theorem length_writeByteEvents (x : Byte) (startFlag stopFlag ninth : Bool) :
    (writeByteEvents x startFlag stopFlag ninth).length =
      54 + (if startFlag then 7 else 0) + (if stopFlag then 6 else 0) := by
  cases startFlag <;> cases stopFlag <;> simp [writeByteEvents, startEvents, stopEvents]

/-- Six uops a bit, eight samples and the acknowledge bit, and those of STOP where the flag asks for it (R144). -/
theorem length_readByteEvents {bs : List Bool} (h : bs.length = 8) (sendAckFlag stopFlag : Bool) :
    (readByteEvents bs sendAckFlag stopFlag).length = 54 + (if stopFlag then 6 else 0) := by
  cases stopFlag <;> simp [readByteEvents, stopEvents, h]

/-! ## The statements -/

/-- Settles O35: ShiftOut number `k` returns bit `7 - k`, and the register is the last eight bits of what was shifted in. -/
theorem shiftRegisterIsMostSignificantFirst : Obligations.ShiftRegisterIsMostSignificantFirst := by
  unfold Obligations.ShiftRegisterIsMostSignificantFirst
  refine ⟨fun s x b => ⟨rfl, rfl, rfl, rfl, shiftLeft_or_eq_append s.sr b, rfl, rfl, rfl, rfl⟩,
    fun s x => ⟨?sent, ?emptied⟩, ?received⟩
  case sent =>
    have hbit : ∀ k ∈ List.range 8, (State.shiftOut^[k] (s.loadByte x)).outBit = x.getLsbD (7 - k) :=
      fun k hk => State.outBit_iterate_shiftOut (Nat.le_of_lt_succ (List.mem_range.mp hk)) _
    rw [List.map_congr_left hbit]
    rfl
  case emptied =>
    rw [State.sr_iterate_shiftOut, BitVec.shiftLeft_eq_zero le_rfl]
    rfl
  case received =>
    intro s bs h
    rw [State.sr_foldl_shiftIn, State.clearByte_sr, shiftedIn_zero, byteBits_bitsByte h]

/-- Settles O36: the whole of WRITE_BYTE is `callWriteByte_eq`, where no part of the STOP depends on the ninth sample. -/
theorem writeByteSendsEightBitsAndSamplesTheNinth : Obligations.WriteByteSendsEightBitsAndSamplesTheNinth := by
  unfold Obligations.WriteByteSendsEightBitsAndSamplesTheNinth
  refine fun s x startFlag stopFlag =>
    ⟨?encoding, ⟨_, exec_writeByte x startFlag stopFlag s, ?acked, callWriteByte_eq ..⟩, length_writeByteEvents ..⟩
  case encoding =>
    rw [encode, primWord_eq_or, ← BitVec.or_assoc, ← BitVec.or_assoc]
    cases startFlag <;> cases stopFlag <;> rfl
  case acked => rw [callWriteByte_eq]; rfl

/-- Settles O37: the whole of READ_BYTE is `callReadByte_eq`. -/
theorem readByteReceivesEightBitsAndSendsTheNinth : Obligations.ReadByteReceivesEightBitsAndSendsTheNinth := by
  unfold Obligations.ReadByteReceivesEightBitsAndSendsTheNinth
  refine fun s sendAckFlag stopFlag => ⟨?encoding, ?meaning, length_readByteEvents rfl ..⟩
  case encoding => cases sendAckFlag <;> cases stopFlag <;> rfl
  case meaning => rw [exec_readByte, callReadByte_eq]

end Sys2Proof.Machine
end

section
/-! PROOFS. INIT, and the one STOP of the commands that transfer bytes (44_transactions.md R160, R164, R166): how a command
with no other running is performed, which events leave the BBM holding the bus with no stop condition made, and how each
command goes on from there to its end. -/

namespace Sys2Proof.Machine

open Sys2Proof

/-! ## A command with no other running -/

/-- The procedure of each command, from its acceptance to its completion (R164 to R169). -/
def Cmd.procedure : Cmd → State → State
  | .init => procInit
  | .sendByte => procSendByte
  | .receiveByte => procReceiveByte
  | .sendByteData => procSendByteData
  | .receiveByteData => procReceiveByteData

/-- With no command running a command is accepted, and its procedure runs to its end (R160). -/
theorem exec_instr_of_idle {s : State} (hbusy : s.busy = false) (c : Cmd) :
    exec c.instr s = .next (Cmd.procedure c (accept c s)) := by
  have hcommand : exec c.instr s = command c (Cmd.procedure c) s := by cases c <;> rfl
  rw [hcommand, command, hbusy]
  rfl

theorem trace_accept (c : Cmd) (s : State) : (accept c s).trace = s.trace ++ [.cmd c.code] := rfl

/-! ## INIT -/

/-- What the procedure of INIT leaves, in every state (R164). -/
theorem procInit_eq (s : State) :
    procInit s = { s with sclOe := false, sdaOe := false, framing := .idle, dcnt := 0, busy := false, seq := .idle,
                          trace := s.trace ++ [.relScl, .relSda, .delay, .done none] } := by
  simp only [procInit, initMicros, runMicros_cons, runMicros_nil, doMicro, doUop, State.delayUop_eq]
  ext <;> simp

/-- With SDA released INIT makes no condition: SDA does not change (R164). -/
theorem conditionsFrom_init_of_sdaReleased {l : Lines} (hsda : l.sdaOe = false) (n : Nat) :
    conditionsFrom n l [.relScl, .relSda, .delay] = [] := by
  simp [conditionsFrom, conditionOf, Lines.after, hsda]

/-- Settles O41: INIT is accepted, and the whole of its procedure is `procInit_eq`; only with SDA driven does its release
of SDA, behind that of SCL, make a condition. -/
theorem initReleasesBothLines : Obligations.InitReleasesBothLines := by
  unfold Obligations.InitReleasesBothLines
  refine ⟨rfl, ?meaning, fun n =>
    ⟨conditionsFrom_init_of_sdaReleased rfl n, conditionsFrom_init_of_sdaReleased rfl n, rfl⟩⟩
  case meaning =>
    intro s hbusy
    have hexec : exec .init s = .next (procInit (accept .init s)) := exec_instr_of_idle hbusy .init
    rw [hexec, procInit_eq, accept_eq]
    simp [Cmd.code]

/-! ## Bits on the wire -/

@[simp] theorem Lines.afterAll_append (l : Lines) (es fs : List Event) :
    l.afterAll (es ++ fs) = (l.afterAll es).afterAll fs :=
  List.foldl_append

/-- Events that only transfer bits: begun with SCL driven they create no condition and end with SCL driven (R132). -/
def TransfersBits (es : List Event) : Prop :=
  ∀ l : Lines, l.sclOe = true → (l.afterAll es).sclOe = true ∧ ∀ n, conditionsFrom n l es = []

theorem transfersBits_nil : TransfersBits [] := fun _ hscl => ⟨hscl, fun _ => rfl⟩

theorem TransfersBits.append {es fs : List Event} (hes : TransfersBits es) (hfs : TransfersBits fs) :
    TransfersBits (es ++ fs) := by
  intro l hscl
  obtain ⟨hsclMid, hcondEs⟩ := hes l hscl
  obtain ⟨hsclEnd, hcondFs⟩ := hfs _ hsclMid
  refine ⟨by rwa [Lines.afterAll_append], fun n => ?_⟩
  rw [conditionsFrom_append, hcondEs, hcondFs, List.append_nil]

/-- A loop transfers bits where each of its turns does. -/
theorem transfersBits_flatMap {f : Bool → List Event} (hf : ∀ b, TransfersBits (f b)) (bs : List Bool) :
    TransfersBits (bs.flatMap f) := by
  induction bs with
  | nil => exact transfersBits_nil
  | cons b bs ih => exact (hf b).append ih

theorem transfersBits_writeBitEvents (v : Bool) : TransfersBits (writeBitEvents v) :=
  fun _ hscl => ⟨rfl, conditionsFrom_sdaUop_cons_eq_nil hscl v (by decide) (by decide) (by decide)⟩

theorem transfersBits_readBitEvents (b : Bool) : TransfersBits (readBitEvents b) :=
  fun _ hscl => ⟨rfl, conditionsFrom_sdaUop_cons_eq_nil hscl true (by simp) (by simp) (by simp)⟩

/-! ## Bytes on the wire -/

/-- SCL driven and SDA released, as every byte without a STOP ends (R143, R144). -/
def Lines.held : Lines := { sclOe := true, sdaOe := false }

/-- Events that, begun with the drivers at `l`, make no stop condition and end with the bus held. -/
structure HoldsBus (l : Lines) (es : List Event) : Prop where
  held : l.afterAll es = Lines.held
  noStop : ∀ n, .stop ∉ conditionsFrom n l es

theorem HoldsBus.append {l : Lines} {es fs : List Event} (hes : HoldsBus l es) (hfs : HoldsBus Lines.held fs) :
    HoldsBus l (es ++ fs) where
  held := by rw [Lines.afterAll_append, hes.held, hfs.held]
  noStop n := by
    rw [conditionsFrom_append, hes.held, List.mem_append, not_or]
    exact ⟨hes.noStop n, hfs.noStop _⟩

/-- Bits that end with SDA released hold the bus where SCL was driven before. -/
theorem TransfersBits.holdsBus {es : List Event} (hes : TransfersBits es) {l : Lines} (hscl : l.sclOe = true)
    (hsda : (l.afterAll es).sdaOe = false) : HoldsBus l es := by
  obtain ⟨hsclEnd, hcond⟩ := hes l hscl
  refine ⟨?_, fun n => by simp [hcond]⟩
  rw [Lines.held, ← hsclEnd, ← hsda]

/-- Begun with SDA released START makes its start condition only: the two releases change nothing on SDA (R120, R121). -/
theorem conditionsFrom_startEvents_of_sdaReleased {l : Lines} (hsda : l.sdaOe = false) (n : Nat) :
    conditionsFrom n l startEvents = [.start] := by
  simp [startEvents, conditionsFrom, conditionOf, Lines.after, hsda]

/-- With SCL driven STOP makes its stop condition only (R122). -/
theorem conditionsFrom_stopEvents_of_sclDriven {l : Lines} (hscl : l.sclOe = true) (n : Nat) :
    conditionsFrom n l stopEvents = [.stop] := by
  simp [stopEvents, conditionsFrom, conditionOf, Lines.after, hscl]

/-- The stop flag of WRITE_BYTE appends a STOP (R143). -/
theorem writeByteEvents_stop (x : Byte) (startFlag ninth : Bool) :
    writeByteEvents x startFlag true ninth = writeByteEvents x startFlag false ninth ++ stopEvents := by
  simp [writeByteEvents]

/-- The stop flag of READ_BYTE appends a STOP (R144). -/
theorem readByteEvents_stop (bs : List Bool) (sendAckFlag : Bool) :
    readByteEvents bs sendAckFlag true = readByteEvents bs sendAckFlag false ++ stopEvents := by
  simp [readByteEvents]

/-- A byte sent within a transaction holds the bus (R143). -/
theorem holdsBus_writeByteEvents {l : Lines} (hscl : l.sclOe = true) (x : Byte) (ninth : Bool) :
    HoldsBus l (writeByteEvents x false false ninth) := by
  have hbits : TransfersBits ((byteBits x).flatMap writeBitEvents ++ readBitEvents ninth) :=
    (transfersBits_flatMap transfersBits_writeBitEvents _).append (transfersBits_readBitEvents ninth)
  have hbyte : writeByteEvents x false false ninth = (byteBits x).flatMap writeBitEvents ++ readBitEvents ninth := by
    simp [writeByteEvents]
  rw [hbyte]
  exact hbits.holdsBus hscl (by rw [Lines.afterAll_append]; rfl)

/-- A byte sent behind a START holds the bus, from every entry with SDA released (R121, R143). -/
theorem holdsBus_startByte {l : Lines} (hsda : l.sdaOe = false) (x : Byte) (ninth : Bool) :
    HoldsBus l (writeByteEvents x true false ninth) := by
  have hbyte : writeByteEvents x true false ninth = startEvents ++ writeByteEvents x false false ninth := by
    simp [writeByteEvents]
  obtain ⟨hheld, hnoStop⟩ := holdsBus_writeByteEvents (l := l.afterAll startEvents) rfl x ninth
  refine ⟨by rw [hbyte, Lines.afterAll_append, hheld], fun n => ?_⟩
  rw [hbyte, conditionsFrom_append, conditionsFrom_startEvents_of_sdaReleased hsda]
  simp [hnoStop]

/-- A byte received and answered by a NAK holds the bus (R144). -/
theorem holdsBus_readByteEvents {l : Lines} (hscl : l.sclOe = true) (bs : List Bool) :
    HoldsBus l (readByteEvents bs false false) := by
  have hbits : TransfersBits (bs.flatMap readBitEvents ++ writeBitEvents true) :=
    (transfersBits_flatMap transfersBits_readBitEvents bs).append (transfersBits_writeBitEvents true)
  have hbyte : readByteEvents bs false false = bs.flatMap readBitEvents ++ writeBitEvents true := by
    simp [readByteEvents]
  rw [hbyte]
  exact hbits.holdsBus hscl (by rw [Lines.afterAll_append]; rfl)

/-! ## A transaction under way, and its end -/

/-- Since the state `s` the BBM has made no stop condition, and at `t` it holds the bus. -/
def HoldsBusSince (s t : State) : Prop :=
  ∃ es, t.trace = s.trace ++ es ∧ HoldsBus s.lines es

/-- Since the state `s` the BBM has held the bus, then made one STOP and finished, and at `t` the bus is idle (R166). -/
def StoppedSince (s t : State) : Prop :=
  (∃ es r, t.trace = s.trace ++ (es ++ stopEvents ++ [.done r]) ∧ HoldsBus s.lines es) ∧
    t.lines = Lines.released ∧ t.framing = .idle

/-- Since the state `s` the BBM has made no stop condition and has finished, still holding the bus (R10, R167). -/
def LeftOpenSince (s t : State) : Prop :=
  ∃ es r, t.trace = s.trace ++ (es ++ [.done r]) ∧ HoldsBus s.lines es

/-- The first byte, with its START: it needs SDA released, which a resting bus has (R41). -/
theorem holdsBusSince_firstByte {s : State} (hsda : s.sdaOe = false) (x : Byte) :
    HoldsBusSince s (callWriteByte x true false s) :=
  ⟨_, by rw [callWriteByte_eq], holdsBus_startByte hsda x (s.nextDraw 0)⟩

section
variable {s t : State} (h : HoldsBusSince s t)
include h

/-- A further byte without a STOP, behind a repeated START or not. -/
theorem HoldsBusSince.writeByte (x : Byte) (startFlag : Bool) :
    HoldsBusSince s (callWriteByte x startFlag false t) := by
  obtain ⟨es, htrace, hes⟩ := h
  have hbyte : HoldsBus Lines.held (writeByteEvents x startFlag false (t.nextDraw 0)) := by
    cases startFlag
    · exact holdsBus_writeByteEvents rfl x _
    · exact holdsBus_startByte rfl x _
  exact ⟨_, by rw [callWriteByte_eq, htrace, List.append_assoc], hes.append hbyte⟩

/-- The abort path with its STOP (R163). -/
theorem HoldsBusSince.nakAbort_stop : StoppedSince s (nakAbort true t) := by
  obtain ⟨es, htrace, hes⟩ := h
  rw [nakAbort, if_pos rfl, callStop_eq]
  exact ⟨⟨es, some failureValue, by simp [htrace], hes⟩, rfl, rfl⟩

/-- The abort path without a STOP, which RB_NAK_STOP = 0 gives to RECEIVE_BYTE (R10, R163). -/
theorem HoldsBusSince.nakAbort_open : LeftOpenSince s (nakAbort false t) := by
  obtain ⟨es, htrace, hes⟩ := h
  exact ⟨es, some failureValue, by simp [nakAbort, htrace], hes⟩

/-- A last byte sent, with its STOP (R165, R168). -/
theorem HoldsBusSince.lastWriteByte (x : Byte) (r : Option Byte) :
    StoppedSince s ((callWriteByte x false true t).finish r) := by
  obtain ⟨es, htrace, hes⟩ := h
  rw [callWriteByte_eq]
  exact ⟨⟨_, r, by simp [htrace, writeByteEvents_stop], hes.append (holdsBus_writeByteEvents rfl x (t.nextDraw 0))⟩,
    rfl, rfl⟩

/-- A last byte received, with its NAK and its STOP (R167, R169). -/
theorem HoldsBusSince.lastReadByte (r : Option Byte) :
    StoppedSince s ((callReadByte false true t).finish r) := by
  obtain ⟨es, htrace, hes⟩ := h
  rw [callReadByte_eq]
  exact ⟨⟨_, r, by simp [htrace, readByteEvents_stop], hes.append (holdsBus_readByteEvents rfl (t.nextDraws 0 8))⟩,
    rfl, rfl⟩

end

/-! ## The end of each command that transfers bytes -/

theorem stoppedSince_procSendByte {s : State} (hsda : s.sdaOe = false) : StoppedSince s (procSendByte s) := by
  have haddr := holdsBusSince_firstByte hsda (addrByte s.saddrL false)
  unfold procSendByte
  dsimp only
  split
  · exact haddr.nakAbort_stop
  · exact haddr.lastWriteByte _ _

theorem stoppedSince_procSendByteData {s : State} (hsda : s.sdaOe = false) : StoppedSince s (procSendByteData s) := by
  have haddr := holdsBusSince_firstByte hsda (addrByte s.saddrL false)
  unfold procSendByteData
  dsimp only
  split
  · exact haddr.nakAbort_stop
  · split
    · exact (haddr.writeByte _ false).nakAbort_stop
    · exact (haddr.writeByte _ false).lastWriteByte _ _

theorem stoppedSince_procReceiveByteData {s : State} (hsda : s.sdaOe = false) :
    StoppedSince s (procReceiveByteData s) := by
  have haddr := holdsBusSince_firstByte hsda (addrByte s.saddrL false)
  unfold procReceiveByteData
  dsimp only
  split
  · exact haddr.nakAbort_stop
  · split
    · exact (haddr.writeByte _ false).nakAbort_stop
    · split
      · exact ((haddr.writeByte _ false).writeByte _ true).nakAbort_stop
      · exact ((haddr.writeByte _ false).writeByte _ true).lastReadByte _

/-- RECEIVE_BYTE ends with a STOP, or after an address NAK with RB_NAK_STOP = 0 leaves its transaction open (R10, R167). -/
theorem procReceiveByte_ends {s : State} (hsda : s.sdaOe = false) :
    StoppedSince s (procReceiveByte s) ∨ (s.cfg.rbNakStop = false ∧ LeftOpenSince s (procReceiveByte s)) := by
  have haddr := holdsBusSince_firstByte hsda (addrByte s.saddrL true)
  have hcfg : (callWriteByte (addrByte s.saddrL true) true false s).cfg = s.cfg :=
    State.cfg_eq_of_hostSide_eq (hostSide_callWriteByte ..)
  unfold procReceiveByte
  dsimp only
  rw [hcfg]
  split
  · cases hstop : s.cfg.rbNakStop
    · exact .inr ⟨rfl, haddr.nakAbort_open⟩
    · exact .inl haddr.nakAbort_stop
  · exact .inl (haddr.lastReadByte _)

/-- From SDA released every command that transfers bytes ends with its STOP, but for that one case of RECEIVE_BYTE. -/
theorem procedure_ends {c : Cmd} (hc : c ≠ .init) {s : State} (hsda : s.sdaOe = false) :
    StoppedSince s (Cmd.procedure c s) ∨
      (c = .receiveByte ∧ s.cfg.rbNakStop = false ∧ LeftOpenSince s (Cmd.procedure c s)) := by
  cases c with
  | init => exact absurd rfl hc
  | sendByte => exact .inl (stoppedSince_procSendByte hsda)
  | receiveByte => exact (procReceiveByte_ends hsda).imp_right fun ⟨hcfg, hopen⟩ => ⟨rfl, hcfg, hopen⟩
  | sendByteData => exact .inl (stoppedSince_procSendByteData hsda)
  | receiveByteData => exact .inl (stoppedSince_procReceiveByteData hsda)

/-! ## The statement -/

/-- At rest SDA is released, in either framing (R41). -/
theorem sdaReleased_of_quietLines {rbNakStop : Bool} {l : Lines} {f : Framing} (h : quietLines rbNakStop l f = true) :
    l.sdaOe = false := by
  cases f <;> simp [quietLines] at h <;> simp [h]

/-- With a STOP behind events that hold the bus, the last condition is a stop condition and the only one (R166). -/
theorem HoldsBus.oneStop {l : Lines} {es : List Event} (h : HoldsBus l es) (n : Nat) :
    (conditionsFrom n l (es ++ stopEvents)).count .stop = 1 ∧
      (conditionsFrom n l (es ++ stopEvents)).getLast? = some .stop := by
  rw [conditionsFrom_append, h.held, conditionsFrom_stopEvents_of_sclDriven rfl]
  exact ⟨by simp [List.count_eq_zero.mpr (h.noStop n)], by simp⟩

/-- Settles O46: INIT is `procInit_eq`; every other command is `procedure_ends`, whose open case the statement leaves out. -/
theorem exactlyOneStopPerCommand : Obligations.ExactlyOneStopPerCommand := by
  unfold Obligations.ExactlyOneStopPerCommand
  intro s c n hbusy hquiet
  have hsda : s.sdaOe = false := sdaReleased_of_quietLines hquiet
  have hexec := exec_instr_of_idle hbusy c
  obtain rfl | hc := eq_or_ne c .init
  · exact ⟨_, [.relScl, .relSda, .delay], none, hexec, by simp [Cmd.procedure, procInit_eq, trace_accept],
      fun _ => conditionsFrom_init_of_sdaReleased hsda n, fun hne => absurd rfl hne⟩
  · have hsdaAccepted : (accept c s).sdaOe = false := hsda
    obtain ⟨⟨es, r, htrace, hes⟩, hlines, hframing⟩ | ⟨hrb, hcfg, es, r, htrace, hes⟩ := procedure_ends hc hsdaAccepted
    · obtain ⟨hcount, hlast⟩ := hes.oneStop n
      exact ⟨_, es ++ stopEvents, r, hexec, by simp [htrace, trace_accept], fun h => absurd h hc,
        fun _ _ => ⟨⟨es, rfl⟩, hcount, hlast, hlines, hframing⟩⟩
    · have hcfgOfS : s.cfg.rbNakStop = false := hcfg
      exact ⟨_, es, r, hexec, by simp [htrace, trace_accept], fun h => absurd h hc,
        fun _ h => absurd (h hrb) (by simp [hcfgOfS])⟩

end Sys2Proof.Machine
end

section
/-! PROOFS. The state after reset (70_reset_and_hazards.md R231). -/

namespace Sys2Proof.Machine

open Sys2Proof

/-- Settles O10: the block of the reset state is at its reset values, so every offset reads 0x00, and INIT from there is
`initReleasesBothLines`. -/
theorem resetLeavesTheIdleBus : Obligations.ResetLeavesTheIdleBus := by
  unfold Obligations.ResetLeavesTheIdleBus
  have hreads := State.regRead_of_resetBlock (s := State.reset) (tr := []) rfl
  obtain ⟨-, hinit, -⟩ := initReleasesBothLines
  exact ⟨rfl, rfl, rfl, rfl, hreads 4, hreads 5, hreads 1, hreads 2, hreads 3, _, hinit State.reset rfl, rfl, rfl⟩

end Sys2Proof.Machine
end

section
/-! PROOFS. How long a command takes (70_reset_and_hazards.md R241, R245): the cycles that the work left of it takes at most,
which each cycle of the sequencer brings down by one whatever the host does, and the uops and DELAYs of each procedure. -/

namespace Sys2Proof.Machine

open Sys2Proof

/-! ## The cycles that work takes at most -/

/-- The cycles of one uop (R241). -/
def uopCycles (delayCycles : Nat) : Uop → Nat
  | .delay => delayCycles
  | .relScl | .drvScl | .relSda | .drvSda | .sampleSda => 1

/-- The most cycles that work takes to its completion, whatever is sampled, from BITCNT at `c` (R241). A loop has as many
turns left as BITCNT needs to reach 8, and at a branch the longer way counts. -/
def maxCycles (delayCycles : Nat) : List Work → BitVec 4 → Nat
  | [], _ => 0
  | .micro (.uop u) :: ws, c => uopCycles delayCycles u + maxCycles delayCycles ws c
  | .micro (.load _) :: ws, _ => maxCycles delayCycles ws 0
  | .micro .clear :: ws, _ => maxCycles delayCycles ws 0
  | .micro .countBit :: ws, c => maxCycles delayCycles ws (c + 1)
  | .micro (.framing _) :: ws, c => maxCycles delayCycles ws c
  | .micro (.store _ _) :: ws, c => maxCycles delayCycles ws c
  | .sampleEnd _ :: ws, c => 2 + maxCycles delayCycles ws c
  | .sendBits :: ws, c => (8 - c).toNat * (3 + 3 * delayCycles) + maxCycles delayCycles ws 8
  | .recvBits :: ws, c => (8 - c).toNat * (4 + 2 * delayCycles) + maxCycles delayCycles ws 8
  | .nakExit _ :: ws, c => max (4 + 3 * delayCycles) (maxCycles delayCycles ws c)
  | .finish _ :: _, _ => 1

/-- Until BITCNT is 8 a turn of a loop leaves one turn less (R141). -/
theorem turnsLeft_succ {c : BitVec 4} (h : c ≠ 8) : (8 - c).toNat = (8 - (c + 1)).toNat + 1 := by
  bv_omega

/-- A WRITE_BIT within a command: three line uops and three DELAYs (R130). -/
theorem maxCycles_writeBit (delayCycles : Nat) (v : Bool) (ws : List Work) (c : BitVec 4) :
    maxCycles delayCycles (micros (writeBitMicros v) ++ ws) c = 3 + 3 * delayCycles + maxCycles delayCycles ws c := by
  cases v <;> simp [micros, writeBitMicros, maxCycles, uopCycles] <;> omega

/-- A READ_BIT within a command: three line uops, the sample and two DELAYs (R131). -/
theorem maxCycles_readBit (delayCycles : Nat) (use : BitUse) (ws : List Work) (c : BitVec 4) :
    maxCycles delayCycles (readBitWork use ++ ws) c = 4 + 2 * delayCycles + maxCycles delayCycles ws c := by
  simp [readBitWork, micros, readBitMicros, maxCycles, uopCycles]; omega

/-- A START within a command: four line uops and three DELAYs (R120). -/
theorem maxCycles_start (delayCycles : Nat) (ws : List Work) (c : BitVec 4) :
    maxCycles delayCycles (micros startMicros ++ ws) c = 4 + 3 * delayCycles + maxCycles delayCycles ws c := by
  simp [micros, startMicros, maxCycles, uopCycles]; omega

/-- A STOP within a command: three line uops and three DELAYs (R122). -/
theorem maxCycles_stop (delayCycles : Nat) (ws : List Work) (c : BitVec 4) :
    maxCycles delayCycles (micros stopMicros ++ ws) c = 3 + 3 * delayCycles + maxCycles delayCycles ws c := by
  simp [micros, stopMicros, maxCycles, uopCycles]; omega

/-- Whatever BITCNT was, no command takes more than RECEIVE_BYTE_DATA does on its longest path (R243). -/
theorem maxCycles_procedureOf (cfg : Config) (c : Cmd) (b : BitVec 4) :
    maxCycles cfg.delayCycles (procedureOf cfg c) b ≤ 131 + 106 * cfg.delayCycles := by
  have hinit (ws : List Work) : maxCycles cfg.delayCycles (micros initMicros ++ ws) b =
      2 + cfg.delayCycles + maxCycles cfg.delayCycles ws b := by
    simp [micros, initMicros, maxCycles, uopCycles]; omega
  cases c <;>
    simp [procedureOf, writeByteWork, readByteWork, maxCycles_start, maxCycles_stop, maxCycles_readBit,
      maxCycles_writeBit, maxCycles, hinit] <;> omega

/-! ## One cycle brings the bound down by one -/

/-- The completion stands among the work. -/
def Completes (ws : List Work) : Prop := ∃ k, .finish k ∈ ws

theorem Completes.tail {w : Work} {ws : List Work} (h : Completes (w :: ws)) (hw : ∀ k, w ≠ .finish k) : Completes ws :=
  h.imp fun k hk => (List.mem_cons.mp hk).resolve_left (hw k).symm

theorem Completes.append (vs : List Work) {ws : List Work} (h : Completes ws) : Completes (vs ++ ws) :=
  h.imp fun _ => List.mem_append_right vs

/-- The rest of the running command takes at most `n` cycles: the position begins with a uop or the completion, and what
is left is all of its work, or where a DELAY is under way what DCNT has still to count and the work behind it (R107). -/
def State.FinishesWithin (n : Nat) (s : State) : Prop :=
  ∃ ws, s.seq = .at ws ∧ startsAtUop ws = true ∧ Completes ws ∧
    ((s.dcnt = 0 ∧ maxCycles s.cfg.delayCycles ws s.bitcnt ≤ n) ∨
     (0 < s.dcnt ∧ ∃ rest, ws = .micro (.uop .delay) :: rest ∧ s.dcnt + maxCycles s.cfg.delayCycles rest s.bitcnt ≤ n))

/-- Settling reaches a position from which no more cycles are left than before it: it takes none itself (R140, R241). -/
theorem settle_position (delayCycles : Nat) {ws : List Work} (hws : Completes ws) (s : State) :
    ∃ vs, (settle ws s).seq = .at vs ∧ startsAtUop vs = true ∧ Completes vs ∧
      maxCycles delayCycles vs (settle ws s).bitcnt ≤ maxCycles delayCycles ws s.bitcnt := by
  induction ws generalizing s with
  | nil => obtain ⟨k, hk⟩ := hws; cases hk
  | cons w ws ih =>
    cases w with
    | micro m =>
      have hrest : Completes ws := hws.tail (by simp)
      cases m with
      | uop u => exact ⟨_, rfl, rfl, hws, le_rfl⟩
      | framing f => exact ih hrest (s.setFraming f)
      | load src => exact ih hrest (s.loadByte (srcByte src s))
      | clear => exact ih hrest s.clearByte
      | countBit => exact ih hrest s.countBit
      | store use b => cases use <;> exact ih hrest _
    | sampleEnd use => exact ⟨_, rfl, rfl, hws, le_rfl⟩
    | sendBits =>
      rw [settle]
      split
      case isTrue h8 => simpa [maxCycles, h8] using ih (hws.tail (by simp)) s
      case isFalse h8 =>
        refine ⟨_, rfl, rfl, (hws.tail (by simp)).append _, ?_⟩
        simp only [List.append_assoc, maxCycles_writeBit, List.cons_append, List.nil_append, maxCycles,
          turnsLeft_succ h8, Nat.succ_mul, State.setSeq_bitcnt, State.shiftOut_bitcnt]
        omega
    | recvBits =>
      rw [settle]
      split
      case isTrue h8 => simpa [maxCycles, h8] using ih (hws.tail (by simp)) s
      case isFalse h8 =>
        refine ⟨_, rfl, rfl, (hws.tail (by simp)).append _, ?_⟩
        simp only [List.append_assoc, maxCycles_readBit, List.cons_append, List.nil_append, maxCycles,
          turnsLeft_succ h8, Nat.succ_mul, State.setSeq_bitcnt]
        omega
    | nakExit stop =>
      rw [settle]
      split
      · refine ⟨_, rfl, by cases stop <;> rfl, Completes.append _ ⟨.failure, List.mem_singleton_self _⟩, ?_⟩
        cases stop <;> simp [maxCycles_stop, maxCycles]
        omega
      · obtain ⟨vs, hseq, hstart, hvs, hle⟩ := ih (hws.tail (by simp)) s
        exact ⟨vs, hseq, hstart, hvs, hle.trans (le_max_right _ _)⟩
    | finish k => exact ⟨_, rfl, rfl, hws, le_rfl⟩

/-- Where DCNT is 0, settling reaches a position from which the work is done in the cycles it takes at most. -/
theorem finishesWithin_settle {ws : List Work} {s : State} {n : Nat} (hws : Completes ws) (hdcnt : s.dcnt = 0)
    (hle : maxCycles s.cfg.delayCycles ws s.bitcnt ≤ n) : (settle ws s).FinishesWithin n := by
  obtain ⟨vs, hseq, hstart, hvs, hmax⟩ := settle_position s.cfg.delayCycles hws s
  have hcfg : (settle ws s).cfg = s.cfg := State.cfg_eq_of_hostSide_eq (hostSide_settle ws s)
  have hdcntSettled : (settle ws s).dcnt = 0 := by rw [settle_frame, hdcnt]
  exact ⟨vs, hseq, hstart, hvs, .inl ⟨hdcntSettled, by rw [hcfg]; exact hmax.trans hle⟩⟩

/-- A cycle of a DELAY that leaves `m` cycles of it (R107). -/
theorem finishesWithin_cycle_delay {rest : List Work} {s : State} {m n : Nat}
    (hseq : s.seq = .at (.micro (.uop .delay) :: rest)) (hrest : Completes rest)
    (hm : (if s.dcnt = 0 then s.cfg.delayCycles else s.dcnt) = m + 1)
    (hle : m + maxCycles s.cfg.delayCycles rest s.bitcnt ≤ n) : (sequencerCycle s).FinishesWithin n := by
  simp only [sequencerCycle, hseq, delayCycle, hm, Nat.add_sub_cancel]
  split
  case isTrue => exact finishesWithin_settle hrest rfl (le_trans (Nat.le_add_left _ m) hle)
  case isFalse hm0 => exact ⟨_, hseq, rfl, hrest.append [_], .inr ⟨Nat.pos_of_ne_zero hm0, rest, rfl, hle⟩⟩

/-- A uop that is no DELAY leaves DCNT alone (R38). -/
theorem dcnt_doUop {u : Uop} (hu : u ≠ .delay) (s : State) : (doUop u s).dcnt = s.dcnt := by
  cases u with
  | delay => exact absurd rfl hu
  | sampleSda => simp only [doUop, State.sampleSda]; split <;> rfl
  | relScl | drvScl | relSda | drvSda => rfl

/-- The cycle of a uop that is no DELAY leaves the work behind it (R241). -/
theorem finishesWithin_cycle_uop {u : Uop} {rest : List Work} {s : State} {n : Nat} (hu : u ≠ .delay)
    (hseq : s.seq = .at (.micro (.uop u) :: rest)) (hrest : Completes rest) (hdcnt : s.dcnt = 0)
    (hle : maxCycles s.cfg.delayCycles rest s.bitcnt ≤ n) : (sequencerCycle s).FinishesWithin n := by
  have hcfg : (doUop u s).cfg = s.cfg := State.cfg_eq_of_hostSide_eq (hostSide_doUop u s)
  have hbitcnt : (doUop u s).bitcnt = s.bitcnt := by rw [doUop_frame]
  rw [sequencerCycle_uop hu hseq]
  exact finishesWithin_settle hrest ((dcnt_doUop hu s).trans hdcnt) (by rwa [hcfg, hbitcnt])

/-- The cycle of the sample leaves the DRV_SCL that ends READ_BIT and the work behind it (R131). -/
theorem finishesWithin_cycle_sampleEnd {use : BitUse} {rest : List Work} {s : State} {n : Nat}
    (hseq : s.seq = .at (.sampleEnd use :: rest)) (hrest : Completes rest) (hdcnt : s.dcnt = 0)
    (hle : 1 + maxCycles s.cfg.delayCycles rest s.bitcnt ≤ n) : (sequencerCycle s).FinishesWithin n := by
  have hcfg : s.sampleSda.cfg = s.cfg := State.cfg_eq_of_hostSide_eq (State.hostSide_sampleSda s)
  have hbitcnt : (doUop .sampleSda s).bitcnt = s.bitcnt := by rw [doUop_frame]
  have hdcntSampled : (doUop .sampleSda s).dcnt = 0 := (dcnt_doUop (by decide) s).trans hdcnt
  have hcycle : sequencerCycle s =
      s.sampleSda.setSeq (.at (.micro (.uop .drvScl) :: .micro (.store use s.sampledBit) :: rest)) := by
    simp only [sequencerCycle, hseq]
  rw [hcycle]
  refine ⟨_, rfl, rfl, hrest.append [_, _], .inl ⟨hdcntSampled, ?_⟩⟩
  rw [doUop] at hbitcnt
  simpa only [maxCycles, uopCycles, State.setSeq_toWorld, State.setSeq_bitcnt, hcfg, hbitcnt] using hle

/-- A uop that is no DELAY takes one cycle (R241). -/
theorem uopCycles_of_ne_delay {u : Uop} (hu : u ≠ .delay) (delayCycles : Nat) : uopCycles delayCycles u = 1 := by
  cases u with
  | delay => exact absurd rfl hu
  | relScl | drvScl | relSda | drvSda | sampleSda => rfl

/-- Each cycle of the sequencer ends the command or brings the bound down by one. -/
theorem finishesWithin_sequencerCycle {s : State} {n : Nat} (hdelay : 1 ≤ s.cfg.delayCycles) (h : s.FinishesWithin n) :
    ∃ m, n = m + 1 ∧ ((sequencerCycle s).busy = false ∨ (sequencerCycle s).FinishesWithin m) := by
  obtain ⟨ws, hseq, hstart, hws, ⟨hdcnt, hle⟩ | ⟨hdcnt, rest, rfl, hle⟩⟩ := h
  · match ws with
    | .micro (.uop u) :: rest =>
      have hrest : Completes rest := hws.tail (by simp)
      rw [maxCycles] at hle
      obtain rfl | hu := eq_or_ne u .delay
      · rw [uopCycles] at hle
        obtain ⟨d, hd⟩ := Nat.exists_eq_add_of_le' hdelay
        exact ⟨n - 1, by omega, .inr (finishesWithin_cycle_delay hseq hrest (by rw [if_pos hdcnt, hd]) (by omega))⟩
      · rw [uopCycles_of_ne_delay hu] at hle
        exact ⟨n - 1, by omega, .inr (finishesWithin_cycle_uop hu hseq hrest hdcnt (by omega))⟩
    | .sampleEnd use :: rest =>
      rw [maxCycles] at hle
      exact ⟨n - 1, by omega, .inr (finishesWithin_cycle_sampleEnd hseq (hws.tail (by simp)) hdcnt (by omega))⟩
    | .finish k :: rest =>
      rw [maxCycles] at hle
      exact ⟨n - 1, by omega, .inl (by simp only [sequencerCycle, hseq, State.finish_busy])⟩
  · obtain ⟨d, hd⟩ := Nat.exists_eq_add_of_le' hdcnt
    exact ⟨n - 1, by omega,
      .inr (finishesWithin_cycle_delay hseq (hws.tail (by simp)) (by rw [if_neg hdcnt.ne', hd]) (by omega))⟩

/-! ## The host's accesses -/

/-- What an access leaves alone while a command runs: all but the operand registers and what the host has read (R161). -/
theorem hostAccess_frame_of_busy {s : State} (hbusy : s.busy = true) (a : Access) :
    hostAccess a s = { s with saddr := (hostAccess a s).saddr, regsel := (hostAccess a s).regsel,
                              wdata := (hostAccess a s).wdata, reads := (hostAccess a s).reads } := by
  cases a with
  | none | rd => rfl
  | wr off v =>
    have hcmd : writeCmd v s = s := by
      obtain h | ⟨-, -, hidle, -⟩ := writeCmd_cases v s
      · exact h
      · simp [hbusy] at hidle
    dsimp only [hostAccess]
    obtain ⟨-, h⟩ | ⟨-, h⟩ | ⟨-, h⟩ | ⟨-, h⟩ | ⟨-, -, -, -, h⟩ := regWrite_cases off v s <;> rw [h]
    · rw [hcmd]
    all_goals rfl

/-- A clock cycle of a running command is the host's access, then one cycle of the sequencer (R111). -/
theorem clockCycle_of_busy {s : State} (hbusy : s.busy = true) (a : Access) :
    clockCycle a s = sequencerCycle (hostAccess a (s.setResetHeld false)) :=
  if_pos hbusy

/-- Whatever the host does in it, a clock cycle of a running command ends it or brings the bound down by one. -/
theorem finishesWithin_clockCycle {s : State} {n : Nat} (hdelay : 1 ≤ s.cfg.delayCycles) (hbusy : s.busy = true)
    (h : s.FinishesWithin n) (a : Access) :
    ∃ m, n = m + 1 ∧ ((clockCycle a s).busy = false ∨ (clockCycle a s).FinishesWithin m) := by
  have haccess : (hostAccess a (s.setResetHeld false)).FinishesWithin n := by
    rw [hostAccess_frame_of_busy (s := s.setResetHeld false) hbusy]; exact h
  rw [clockCycle_of_busy hbusy]
  exact finishesWithin_sequencerCycle (by rwa [cfg_hostAccess]) haccess

/-- While a command runs a clock cycle leaves the script alone. -/
theorem inputs_clockCycle_of_busy {s : State} (hbusy : s.busy = true) (a : Access) : (clockCycle a s).inputs = s.inputs := by
  have hsequencer : (clockCycle a s).inputs = (hostAccess a (s.setResetHeld false)).inputs := by
    rw [clockCycle_of_busy hbusy]; exact congrArg HostSide.inputs (hostSide_sequencerCycle _)
  rw [hsequencer, hostAccess_frame_of_busy (s := s.setResetHeld false) hbusy]
  rfl

/-- A step with a clock cycle at the head of the script performs that cycle. -/
theorem step_eq_clockCycle {s : State} {a : Access} {rest : List Input} (hwf : s.cfg.wellFormed = true)
    (hin : s.inputs = .cycle a :: rest) : step s = .next (clockCycle a (s.setInputs rest)) := by
  simp [step, hwf, fetch, hin]

/-- A BBM's DELAY takes at least one cycle (R7, R240). -/
theorem one_le_delayCycles {c : Config} (h : c.wellFormed = true) : 1 ≤ c.delayCycles := by
  simp only [Config.wellFormed, Bool.and_eq_true, decide_eq_true_eq] at h
  exact h.2

/-- With as many clock cycles to come as the bound has, no command runs after at most that many. -/
theorem runSteps_finishes {n : Nat} {s : State} {accesses : List Access} (hwf : s.cfg.wellFormed = true)
    (hin : s.inputs = accesses.map Input.cycle) (hn : n ≤ accesses.length)
    (h : s.busy = false ∨ s.FinishesWithin n) :
    ∃ k t, k ≤ n ∧ runSteps k s = .next t ∧ t.busy = false := by
  have hdelay := one_le_delayCycles hwf
  induction accesses generalizing n s with
  | nil =>
    obtain hidle | hfin := h
    · exact ⟨0, s, Nat.zero_le n, rfl, hidle⟩
    · obtain ⟨m, rfl, -⟩ := finishesWithin_sequencerCycle hdelay hfin
      exact absurd hn (Nat.not_succ_le_zero m)
  | cons a rest ih =>
    cases hbusy : s.busy with
    | false => exact ⟨0, s, Nat.zero_le n, rfl, hbusy⟩
    | true =>
      have hfin : s.FinishesWithin n := h.resolve_left (by simp [hbusy])
      have hstep := step_eq_clockCycle hwf hin
      have hcfg : (clockCycle a (s.setInputs (rest.map Input.cycle))).cfg = s.cfg := step_keepsCfg hstep
      have hinput := inputs_clockCycle_of_busy (s := s.setInputs (rest.map Input.cycle)) hbusy a
      obtain ⟨m, rfl, hnext⟩ := finishesWithin_clockCycle (s := s.setInputs (rest.map Input.cycle)) hdelay hbusy hfin a
      obtain ⟨k, t, hk, hrun, ht⟩ :=
        ih (by rwa [hcfg]) hinput (Nat.le_of_succ_le_succ hn) hnext (by rwa [hcfg])
      exact ⟨k + 1, t, Nat.succ_le_succ hk, by rw [runSteps, hstep]; exact hrun, ht⟩

/-- Right after its acceptance every command is within the bound (R245). -/
theorem finishesWithin_accept {s : State} (hdcnt : s.dcnt = 0) (c : Cmd) :
    (accept c s).FinishesWithin (131 + 106 * s.cfg.delayCycles) :=
  ⟨procedureOf s.cfg c, rfl, by cases c <;> rfl, by cases c <;> exact Completes.append _ ⟨_, List.mem_singleton_self _⟩,
    .inl ⟨hdcnt, maxCycles_procedureOf s.cfg c s.bitcnt⟩⟩

/-! ## The uops of each command -/

/-- Since the state `s` the BBM has performed at most `u` uops, of which at most `d` are DELAYs, and nothing else. -/
def UopsSince (s t : State) (u d : Nat) : Prop :=
  ∃ es, t.trace = s.trace ++ es ∧ es.length ≤ u ∧ es.countP Event.isDelay ≤ d

/-- Since the state `s` the BBM has performed at most `u` uops, of which at most `d` are DELAYs, and has finished. -/
def FinishedSince (s t : State) (u d : Nat) : Prop :=
  ∃ es r, t.trace = s.trace ++ (es ++ [.done r]) ∧ es.length ≤ u ∧ es.countP Event.isDelay ≤ d

theorem uopsSince_refl (s : State) : UopsSince s s 0 0 := ⟨[], by simp⟩

theorem FinishedSince.mono {s t : State} {u d u' d' : Nat} (h : FinishedSince s t u d) (hu : u ≤ u' := by decide)
    (hd : d ≤ d' := by decide) : FinishedSince s t u' d' := by
  obtain ⟨es, r, htrace, hlen, hdelays⟩ := h
  exact ⟨es, r, htrace, hlen.trans hu, hdelays.trans hd⟩

@[simp] theorem countP_isDelay_startEvents : startEvents.countP Event.isDelay = 3 := rfl

@[simp] theorem countP_isDelay_stopEvents : stopEvents.countP Event.isDelay = 3 := rfl

@[simp] theorem countP_isDelay_writeBitEvents (v : Bool) : (writeBitEvents v).countP Event.isDelay = 3 := by
  cases v <;> rfl

@[simp] theorem countP_isDelay_readBitEvents (b : Bool) : (readBitEvents b).countP Event.isDelay = 2 := rfl

/-- Three DELAYs for each of the eight bits sent and two for the ninth sampled, and three for START and STOP each (R242). -/
theorem countP_isDelay_writeByteEvents (x : Byte) (startFlag stopFlag ninth : Bool) :
    (writeByteEvents x startFlag stopFlag ninth).countP Event.isDelay =
      26 + (if startFlag then 3 else 0) + (if stopFlag then 3 else 0) := by
  cases startFlag <;> cases stopFlag <;> simp [writeByteEvents, List.countP_flatMap, Function.comp_def]

/-- Two DELAYs for each of the eight bits sampled and three for the ninth sent, and three for STOP (R242). -/
theorem countP_isDelay_readByteEvents {bs : List Bool} (h : bs.length = 8) (sendAckFlag stopFlag : Bool) :
    (readByteEvents bs sendAckFlag stopFlag).countP Event.isDelay = 19 + (if stopFlag then 3 else 0) := by
  cases stopFlag <;> simp [readByteEvents, List.countP_flatMap, Function.comp_def, h]

section
variable {s t : State} {u d : Nat} (h : UopsSince s t u d)
include h

theorem UopsSince.writeByte (x : Byte) (startFlag stopFlag : Bool) :
    UopsSince s (callWriteByte x startFlag stopFlag t)
      (u + (54 + (if startFlag then 7 else 0) + (if stopFlag then 6 else 0)))
      (d + (26 + (if startFlag then 3 else 0) + (if stopFlag then 3 else 0))) := by
  obtain ⟨es, htrace, hlen, hdelays⟩ := h
  refine ⟨es ++ writeByteEvents x startFlag stopFlag (t.nextDraw 0), by simp [callWriteByte_eq, htrace], ?_, ?_⟩
  · rw [List.length_append, length_writeByteEvents]; omega
  · rw [List.countP_append, countP_isDelay_writeByteEvents]; omega

theorem UopsSince.readByte (sendAckFlag stopFlag : Bool) :
    UopsSince s (callReadByte sendAckFlag stopFlag t)
      (u + (54 + (if stopFlag then 6 else 0))) (d + (19 + (if stopFlag then 3 else 0))) := by
  obtain ⟨es, htrace, hlen, hdelays⟩ := h
  refine ⟨es ++ readByteEvents (t.nextDraws 0 8) sendAckFlag stopFlag, by simp [callReadByte_eq, htrace], ?_, ?_⟩
  · rw [List.length_append, length_readByteEvents rfl]; omega
  · rw [List.countP_append, countP_isDelay_readByteEvents rfl]; omega

theorem UopsSince.finish (r : Option Byte) : FinishedSince s (t.finish r) u d := by
  obtain ⟨es, htrace, hlen, hdelays⟩ := h
  exact ⟨es, r, by simp [htrace], hlen, hdelays⟩

theorem UopsSince.stop : UopsSince s (callStop t) (u + 6) (d + 3) := by
  obtain ⟨es, htrace, hlen, hdelays⟩ := h
  refine ⟨es ++ stopEvents, by simp [callStop_eq, htrace], ?_, ?_⟩
  · rw [List.length_append]; exact Nat.add_le_add_right hlen 6
  · rw [List.countP_append]; exact Nat.add_le_add_right hdelays 3

/-- The abort path has a STOP at most (R163). -/
theorem UopsSince.nakAbort (stop : Bool) : FinishedSince s (nakAbort stop t) (u + 6) (d + 3) := by
  cases stop
  · exact (h.finish _).mono (Nat.le_add_right u 6) (Nat.le_add_right d 3)
  · exact h.stop.finish _

end

/-- INIT has three uops, one of them a DELAY (R164). -/
theorem finishedSince_procInit (s : State) : FinishedSince s (procInit s) 3 1 :=
  ⟨[.relScl, .relSda, .delay], none, by rw [procInit_eq]; rfl, by decide, by decide⟩

theorem finishedSince_procSendByte (s : State) : FinishedSince s (procSendByte s) 121 58 := by
  have haddr := (uopsSince_refl s).writeByte (addrByte s.saddrL false) true false
  unfold procSendByte
  dsimp only
  split
  · exact (haddr.nakAbort true).mono
  · exact ((haddr.writeByte _ false true).finish _).mono

theorem finishedSince_procReceiveByte (s : State) : FinishedSince s (procReceiveByte s) 121 51 := by
  have haddr := (uopsSince_refl s).writeByte (addrByte s.saddrL true) true false
  unfold procReceiveByte
  dsimp only
  split
  · exact (haddr.nakAbort _).mono
  · exact ((haddr.readByte false true).finish _).mono

theorem finishedSince_procSendByteData (s : State) : FinishedSince s (procSendByteData s) 175 84 := by
  have haddr := (uopsSince_refl s).writeByte (addrByte s.saddrL false) true false
  unfold procSendByteData
  dsimp only
  split
  · exact (haddr.nakAbort true).mono
  · have hreg := haddr.writeByte (callWriteByte (addrByte s.saddrL false) true false s).regL false false
    split
    · exact (hreg.nakAbort true).mono
    · exact ((hreg.writeByte _ false true).finish _).mono

theorem finishedSince_procReceiveByteData (s : State) : FinishedSince s (procReceiveByteData s) 236 106 := by
  have haddr := (uopsSince_refl s).writeByte (addrByte s.saddrL false) true false
  unfold procReceiveByteData
  dsimp only
  split
  · exact (haddr.nakAbort true).mono
  · have hreg := haddr.writeByte (callWriteByte (addrByte s.saddrL false) true false s).regL false false
    split
    · exact (hreg.nakAbort true).mono
    · split
      · exact ((hreg.writeByte _ true false).nakAbort true).mono
      · exact (((hreg.writeByte _ true false).readByte false true).finish _).mono

/-- No command has more uops or DELAYs than RECEIVE_BYTE_DATA has on its longest path (R243). -/
theorem finishedSince_procedure (c : Cmd) (s : State) : FinishedSince s (Cmd.procedure c s) 236 106 := by
  cases c with
  | init => exact (finishedSince_procInit s).mono
  | sendByte => exact (finishedSince_procSendByte s).mono
  | receiveByte => exact (finishedSince_procReceiveByte s).mono
  | sendByteData => exact (finishedSince_procSendByteData s).mono
  | receiveByteData => exact finishedSince_procReceiveByteData s

/-! ## The statement -/

/-- Settles O56: acceptance begins within the bound and each cycle brings it down by one, whatever the host does; the uops
are those of the command's procedure. -/
theorem everyCommandFinishesInBoundedTime : Obligations.EveryCommandFinishesInBoundedTime := by
  unfold Obligations.EveryCommandFinishesInBoundedTime
  refine ⟨fun s c accesses hwf _ hdcnt hlen hin => ?cycles, fun s c hidle => ?uops⟩
  case cycles => exact runSteps_finishes hwf hin hlen.ge (.inr (finishesWithin_accept hdcnt c))
  case uops =>
    obtain ⟨es, r, htrace, hcount, hdelays⟩ := finishedSince_procedure c (accept c s)
    exact ⟨_, es, r, exec_instr_of_idle hidle c, by simp [htrace, trace_accept], hcount, hdelays⟩

end Sys2Proof.Machine
end

section
/-! PROOFS. The encodings (30_encoding.md R72, R74, R75, R82): the fields of a PRIM word, the two directions between
instructions and words, and which words each decoder accepts. -/

namespace Sys2Proof

/-! ## The fields of a PRIM word -/

/-- Bit by bit: the byte, `g`, `f`, two zeros, the kind (R75). -/
theorem getLsbD_primWord (k : BitVec 4) (f g : Bool) (b : Byte) (i : Nat) :
    (primWord k f g b).getLsbD i =
      if i < 8 then b.getLsbD i else if i = 8 then g else if i = 9 then f else if i < 12 then false
      else k.getLsbD (i - 12) := by
  simp only [primWord, BitVec.getLsbD_append, BitVec.getLsbD_ofBool, BitVec.getLsbD_zero]
  by_cases h12 : i < 12
  · interval_cases i <;> simp
  · have hpos : i - 8 - 1 - 1 - 2 = i - 12 := by omega
    have hhigh : ¬ i < 8 ∧ ¬ i - 8 < 1 ∧ ¬ i - 8 - 1 < 1 ∧ ¬ i - 8 - 1 - 1 < 2 ∧ i ≠ 8 ∧ i ≠ 9 := by omega
    simp only [hhigh, h12, if_false]

@[simp] theorem kind_primWord (k : BitVec 4) (f g : Bool) (b : Byte) : (primWord k f g b).extractLsb' 12 4 = k := by
  apply BitVec.eq_of_getLsbD_eq
  intro i hi
  have hlow : ¬ 12 + i < 8 ∧ 12 + i ≠ 8 ∧ 12 + i ≠ 9 ∧ ¬ 12 + i < 12 := by omega
  simp only [BitVec.getLsbD_extractLsb', getLsbD_primWord, hi, hlow, if_false, Nat.add_sub_cancel_left, decide_true,
    Bool.true_and]

@[simp] theorem reserved_primWord (k : BitVec 4) (f g : Bool) (b : Byte) :
    (primWord k f g b).extractLsb' 10 2 = 0 := by
  apply BitVec.eq_of_getLsbD_eq
  intro i hi
  have hlow : ¬ 10 + i < 8 ∧ 10 + i ≠ 8 ∧ 10 + i ≠ 9 ∧ 10 + i < 12 := by omega
  simp only [BitVec.getLsbD_extractLsb', getLsbD_primWord, hlow, if_false, if_true, Bool.and_false]
  exact BitVec.getLsbD_zero.symm

@[simp] theorem getLsbD_f_primWord (k : BitVec 4) (f g : Bool) (b : Byte) : (primWord k f g b).getLsbD 9 = f :=
  getLsbD_primWord k f g b 9

@[simp] theorem getLsbD_g_primWord (k : BitVec 4) (f g : Bool) (b : Byte) : (primWord k f g b).getLsbD 8 = g :=
  getLsbD_primWord k f g b 8

@[simp] theorem byte_primWord (k : BitVec 4) (f g : Bool) (b : Byte) : (primWord k f g b).extractLsb' 0 8 = b := by
  apply BitVec.eq_of_getLsbD_eq
  intro i hi
  simp only [BitVec.getLsbD_extractLsb', getLsbD_primWord, hi, Nat.zero_add, if_true, decide_true, Bool.true_and]

/-- A word whose reserved bits are zero is the word of its own fields (R75). -/
theorem primWord_fields {w : Word16} (h : w.extractLsb' 10 2 = 0) :
    primWord (w.extractLsb' 12 4) (w.getLsbD 9) (w.getLsbD 8) (w.extractLsb' 0 8) = w := by
  have h0 : w.getLsbD 10 = false := by simpa [-BitVec.getLsbD_eq_getElem] using congrArg (·.getLsbD 0) h
  have h1 : w.getLsbD 11 = false := by simpa [-BitVec.getLsbD_eq_getElem] using congrArg (·.getLsbD 1) h
  apply BitVec.eq_of_getLsbD_eq
  intro i hi
  rw [getLsbD_primWord]
  interval_cases i <;> simp [BitVec.getLsbD_extractLsb', h0, h1, -BitVec.getLsbD_eq_getElem]

/-! ## Decoding and encoding a PRIM word -/

/-- The decoder of the compound primitives, from the fields of the word (R75). -/
theorem primOfWord_primWord (k : BitVec 4) (f g : Bool) (b : Byte) :
    primOfWord (primWord k f g b) =
      if k = 1 then (if f || g || b ≠ 0 then none else some .start)
      else if k = 2 then (if f || g || b ≠ 0 then none else some .stop)
      else if k = 3 then (if f || b ≠ 0 then none else some (.writeBit g))
      else if k = 4 then (if f || g || b ≠ 0 then none else some .readBit)
      else if k = 5 then some (.writeByte b f g)
      else if k = 6 then (if b ≠ 0 then none else some (.readByte f g))
      else none := by
  simp only [primOfWord, kind_primWord, reserved_primWord, getLsbD_f_primWord, getLsbD_g_primWord, byte_primWord,
    ne_eq, not_true_eq_false, if_false]

/-- Settles O1: a command and a uop have one word each, and a compound primitive stands in the fields of its PRIM word. -/
theorem decodeOfEncodeIsTheInstruction : Obligations.DecodeOfEncodeIsTheInstruction := by
  unfold Obligations.DecodeOfEncodeIsTheInstruction
  intro i
  cases i with
  | init | sendByte | receiveByte | sendByteData | receiveByteData => rfl
  | relScl | drvScl | relSda | drvSda | delay | sampleSda => rfl
  | start | stop | writeBit v | readBit | writeByte x f g | readByte f g =>
    simp [encode, decode, primOfWord_primWord]

/-- Where the reserved bits are zero, what a PRIM word decodes to is encoded by the word of its fields (R75). -/
theorem encode_primOfWord_primWord {k : BitVec 4} {f g : Bool} {b : Byte} {i : Instr}
    (h : primOfWord (primWord k f g b) = some i) : encode i = .prim (primWord k f g b) := by
  rw [primOfWord_primWord] at h
  split_ifs at h <;> cases h <;> simp_all [encode]

theorem decode_cmd_eq_ok {v : Byte} {i : Instr} : decode (.cmd v) = .ok i ↔ ∃ c, Cmd.ofCode v = some c ∧ c.instr = i := by
  cases h : Cmd.ofCode v <;> simp [decode, h]

theorem decode_uop_eq_ok {w : Byte} {i : Instr} : decode (.uop w) = .ok i ↔ ∃ u, Uop.ofCode w = some u ∧ u.instr = i := by
  cases h : Uop.ofCode w <;> simp [decode, h]

theorem decode_prim_eq_ok {w : Word16} {i : Instr} : decode (.prim w) = .ok i ↔ primOfWord w = some i := by
  cases h : primOfWord w <;> simp [decode, h]

/-- A command byte is matched on all eight bits (R72). -/
theorem Cmd.code_of_ofCode {v : Byte} {c : Cmd} (h : Cmd.ofCode v = some c) : c.code = v := by
  unfold Cmd.ofCode at h
  split_ifs at h <;> cases h <;> simp_all [Cmd.code]

theorem encode_instr_cmd (c : Cmd) : encode c.instr = .cmd c.code := by cases c <;> rfl

theorem encode_instr_uop (u : Uop) : encode u.instr = .uop u.code := by cases u <;> rfl

/-- A UOP byte is its five bits `00010` and its selector (R74). -/
theorem Uop.code_of_ofCode {w : Byte} {u : Uop} (h : Uop.ofCode w = some u) : u.code = w := by
  revert u w
  decide

/-- A PRIM word whose reserved bits are not zero has no meaning (R75). -/
theorem primOfWord_eq_none_of_reserved {w : Word16} (h : w.extractLsb' 10 2 ≠ 0) : primOfWord w = none :=
  if_pos h

/-- Settles O2: a command byte and a UOP byte are matched on all their bits, and a PRIM word that decodes is the word of
its fields. -/
theorem encodeOfDecodeIsTheWord : Obligations.EncodeOfDecodeIsTheWord := by
  unfold Obligations.EncodeOfDecodeIsTheWord
  intro w i h
  cases w with
  | cmd v =>
    obtain ⟨c, hc, rfl⟩ := decode_cmd_eq_ok.mp h
    rw [encode_instr_cmd, Cmd.code_of_ofCode hc]
  | uop w =>
    obtain ⟨u, hu, rfl⟩ := decode_uop_eq_ok.mp h
    rw [encode_instr_uop, Uop.code_of_ofCode hu]
  | prim w =>
    have hprim : primOfWord w = some i := decode_prim_eq_ok.mp h
    have hreserved : w.extractLsb' 10 2 = 0 := by
      by_contra hne
      simp [primOfWord_eq_none_of_reserved hne] at hprim
    rw [← primWord_fields hreserved] at hprim ⊢
    exact encode_primOfWord_primWord hprim

/-! ## Which words decode -/

/-- A command byte decodes where it is 1 to 5 (R72). -/
theorem isSome_ofCode_cmd (v : Byte) : (Cmd.ofCode v).isSome = cmdWordOk v := by
  revert v
  decide

/-- A UOP byte decodes where it is `0001 0uuu` with `uuu` at most 5 (R74). -/
theorem isSome_ofCode_uop (w : Byte) : (Uop.ofCode w).isSome = uopWordOk w := by
  revert w
  decide

/-- The "must be" rules of a PRIM word, from its fields (R75). -/
theorem primWordOk_primWord (k : BitVec 4) (f g : Bool) (b : Byte) :
    primWordOk (primWord k f g b) =
      (decide (1 ≤ k.toNat) && decide (k.toNat ≤ 6) && (decide (5 ≤ k.toNat) || !f) &&
        (decide (5 ≤ k.toNat) || decide (k.toNat = 3) || !g) && (decide (k.toNat = 5) || decide (b = 0))) := by
  simp only [primWordOk, primReservedOk, primFOk, primGOk, primBOk, primKind, kind_primWord, reserved_primWord,
    getLsbD_f_primWord, getLsbD_g_primWord, byte_primWord, decide_true, Bool.and_true]

/-- Kind by kind, a PRIM word whose reserved bits are zero decodes where it keeps the "must be" rules (R75). -/
theorem isSome_primOfWord_primWord (k : BitVec 4) (f g : Bool) (b : Byte) :
    (primOfWord (primWord k f g b)).isSome = primWordOk (primWord k f g b) := by
  rw [primOfWord_primWord, primWordOk_primWord]
  simp only [apply_ite Option.isSome, Option.isSome_none, Option.isSome_some]
  by_cases hb : b = 0 <;> simp only [hb, ne_eq] <;> revert k f g <;> decide

/-- A PRIM word decodes where it keeps the "must be" rules (R75). -/
theorem isSome_primOfWord (w : Word16) : (primOfWord w).isSome = primWordOk w := by
  by_cases h : w.extractLsb' 10 2 = 0
  · rw [← primWord_fields h, isSome_primOfWord_primWord]
  · simp [primOfWord_eq_none_of_reserved h, primWordOk, primReservedOk, show ¬ w.extractLsb' 10 2 = 0#2 from h]

/-- The three decoders accept the well-formed words (R72, R74, R75). -/
theorem exists_decode_iff_wellFormed (w : EncWord) : (∃ i, decode w = .ok i) ↔ w.wellFormed = true := by
  cases w with
  | cmd v => simp [decode_cmd_eq_ok, EncWord.wellFormed, ← isSome_ofCode_cmd, Option.isSome_iff_exists]
  | uop w => simp [decode_uop_eq_ok, EncWord.wellFormed, ← isSome_ofCode_uop, Option.isSome_iff_exists]
  | prim w => simp [decode_prim_eq_ok, EncWord.wellFormed, ← isSome_primOfWord, Option.isSome_iff_exists]

/-- A command byte that is not 1 to 5 is reserved (R78). -/
theorem decode_cmd_of_not_ok {v : Byte} (h : cmdWordOk v = false) : decode (.cmd v) = .reservedCmd v := by
  rw [← isSome_ofCode_cmd, Option.isSome_eq_false_iff, Option.isNone_iff_eq_none] at h
  simp [decode, h]

/-- A UOP byte without a meaning is invalid (R79). -/
theorem decode_uop_of_not_ok {w : Byte} (h : uopWordOk w = false) : decode (.uop w) = .invalidUop w := by
  rw [← isSome_ofCode_uop, Option.isSome_eq_false_iff, Option.isNone_iff_eq_none] at h
  simp [decode, h]

/-- A PRIM word without a meaning is invalid (R79). -/
theorem decode_prim_of_not_ok {w : Word16} (h : primWordOk w = false) : decode (.prim w) = .invalidPrim w := by
  rw [← isSome_primOfWord, Option.isSome_eq_false_iff, Option.isNone_iff_eq_none] at h
  simp [decode, h]

/-- Settles O3: each decoder is total on its words, and answers an instruction on the well-formed ones. -/
theorem decodersAcceptExactlyTheWellFormedWords : Obligations.DecodersAcceptExactlyTheWellFormedWords := by
  unfold Obligations.DecodersAcceptExactlyTheWellFormedWords
  exact ⟨exists_decode_iff_wellFormed, fun _ => decode_cmd_of_not_ok, fun _ => decode_uop_of_not_ok,
    fun _ => decode_prim_of_not_ok⟩

/-- Settles O4: the ten words are computed. -/
theorem writtenWordsDecodeToTheirInstructions : Obligations.WrittenWordsDecodeToTheirInstructions := by
  unfold Obligations.WrittenWordsDecodeToTheirInstructions
  decide

/-! ## Access words -/

/-- A read word `0 ooo 00000000` (R82). -/
theorem decode_readWord (off : Offset) : Access.decode (0#1 ++ (off ++ 0#8)) = some (.rd off) := by
  revert off
  decide

/-- A write word `1 ooo dddddddd` (R82). -/
theorem decode_writeWord (off : Offset) (v : Byte) : Access.decode (1#1 ++ (off ++ v)) = some (.wr off v) := by
  have hwrite : (1#1 ++ (off ++ v)).getLsbD 11 = true := by
    simp only [BitVec.getLsbD_append]; rfl
  have hoff : (1#1 ++ (off ++ v)).extractLsb' 8 3 = off := by
    apply BitVec.eq_of_getLsbD_eq
    intro i hi
    have hpos : ¬ 8 + i < 8 ∧ 8 + i < 3 + 8 := by omega
    simp only [BitVec.getLsbD_extractLsb', BitVec.getLsbD_append, hi, hpos, if_true, if_false, decide_true,
      Bool.true_and, Nat.add_sub_cancel_left]
  have hdatum : (1#1 ++ (off ++ v)).extractLsb' 0 8 = v := by
    apply BitVec.eq_of_getLsbD_eq
    intro i hi
    have hpos : i < 3 + 8 := by omega
    simp only [BitVec.getLsbD_extractLsb', BitVec.getLsbD_append, hi, hpos, Nat.zero_add, if_true, decide_true, Bool.true_and]
  simp only [Access.decode]
  rw [hwrite, hoff, hdatum]
  rfl

/-- Settles O5: an access word is `decode_readWord` or `decode_writeWord`; the absence of an access has none. -/
theorem accessWordsReadBack : Obligations.AccessWordsReadBack := by
  unfold Obligations.AccessWordsReadBack
  intro a w h
  cases a with
  | none => cases h
  | rd off => cases h; exact decode_readWord off
  | wr off v => cases h; exact decode_writeWord off v

end Sys2Proof
end

section
/-! PROOFS. The four commands that transfer bytes, whole (44_transactions.md R165 to R169): the state between two bytes of a
command, what each byte and the end of the command make of it, and the state at completion on each path. -/

namespace Sys2Proof.Machine

open Sys2Proof

/-! ## A command between two bytes -/

/-- The state of the command `c`, accepted in `s`, behind a byte of it: the drivers, the framing, `SR` and `ACKB`, how many
draws it has taken, and its uop events so far. Its completion is `commandEnd`. -/
def commandMid (s : State) (c : Cmd) (l : Lines) (f : Framing) (sr : Byte) (ackb : Bool) (draws : Nat)
    (events : List Event) : State :=
  { s with
    opL := c.code, saddrL := s.saddr, regL := s.regsel, dataL := s.wdata, busy := true, seq := .at (procedureOf s.cfg c),
    sclOe := l.sclOe, sdaOe := l.sdaOe, framing := f, sr := sr, bitcnt := 8, ackb := ackb, dcnt := 0,
    draws := s.draws.drop draws, drawn := s.drawn + draws,
    trace := s.trace ++ ([.cmd c.code] ++ events) }

section
variable (s : State) (c : Cmd) (l : Lines) (f : Framing) (sr : Byte) (ackb : Bool) (k : Nat) (es : List Event)

@[simp] theorem acked_commandMid : (commandMid s c l f sr ackb k es).acked = !ackb := rfl
@[simp] theorem saddrL_commandMid : (commandMid s c l f sr ackb k es).saddrL = s.saddr := rfl
@[simp] theorem regL_commandMid : (commandMid s c l f sr ackb k es).regL = s.regsel := rfl
@[simp] theorem dataL_commandMid : (commandMid s c l f sr ackb k es).dataL = s.wdata := rfl
@[simp] theorem sr_commandMid : (commandMid s c l f sr ackb k es).sr = sr := rfl
@[simp] theorem cfg_commandMid : (commandMid s c l f sr ackb k es).cfg = s.cfg := rfl

theorem nextDraw_commandMid (j : Nat) : (commandMid s c l f sr ackb k es).nextDraw j = s.nextDraw (k + j) :=
  drawAt_drop s.draws s.drawn k j

theorem nextDraws_commandMid (n : Nat) : (commandMid s c l f sr ackb k es).nextDraws 0 n = s.nextDraws k n := by
  simp only [State.nextDraws, nextDraw_commandMid, Nat.zero_add]

/-- The first byte of a command, behind its START (R143). -/
theorem firstByte_eq (x : Byte) :
    callWriteByte x true false (accept c s) =
      commandMid s c Lines.held .active 0x00 (s.nextDraw 0) 1 (writeByteEvents x true false (s.nextDraw 0)) := by
  have hdraw : (accept c s).nextDraw 0 = s.nextDraw 0 := rfl
  rw [callWriteByte_eq, hdraw, accept_eq]
  simp [commandMid, Lines.held]

/-- A further byte that the command sends (R143). -/
theorem writeByte_commandMid (x : Byte) (startFlag stopFlag : Bool) :
    callWriteByte x startFlag stopFlag (commandMid s c l f sr ackb k es) =
      commandMid s c { sclOe := !stopFlag, sdaOe := false }
        (if stopFlag then .idle else if startFlag then .active else f) 0x00 (s.nextDraw k) (k + 1)
        (es ++ writeByteEvents x startFlag stopFlag (s.nextDraw k)) := by
  rw [callWriteByte_eq, nextDraw_commandMid]
  simp [commandMid, Nat.add_assoc]

/-- The byte that the command receives, with its NAK and its STOP (R144). -/
theorem readByte_commandMid :
    callReadByte false true (commandMid s c l f sr ackb k es) =
      commandMid s c Lines.released .idle (bitsByte (s.nextDraws k 8)) ackb (k + 8)
        (es ++ readByteEvents (s.nextDraws k 8) false true) := by
  rw [callReadByte_eq, nextDraws_commandMid]
  simp [commandMid, Lines.released, Nat.add_assoc]

/-- The completion with a value (R162). -/
theorem finish_commandMid (r : Byte) :
    (commandMid s c l f sr ackb k es).finish (some r) = commandEnd s c l f sr ackb k r es := by
  simp [commandMid, commandEnd, State.finish]

/-- The abort path with its STOP (R163). -/
theorem nakAbort_stop_commandMid :
    nakAbort true (commandMid s c l f sr ackb k es) =
      commandEnd s c Lines.released .idle sr ackb k 0x00 (es ++ stopEvents) := by
  rw [nakAbort, if_pos rfl, callStop_eq]
  simp [commandMid, commandEnd, State.finish, Lines.released, failureValue]

/-- The abort path without a STOP (R10, R163). -/
theorem nakAbort_open_commandMid :
    nakAbort false (commandMid s c l f sr ackb k es) = commandEnd s c l f sr ackb k 0x00 es :=
  finish_commandMid s c l f sr ackb k es failureValue

end

/-! ## Each command to its end -/

section
variable {s : State} (hbusy : s.busy = false)
include hbusy

/-- SEND_BYTE (R165). -/
theorem exec_sendByte_eq : exec .sendByte s = .next
    (if s.nextDraw 0 then
      commandEnd s .sendByte Lines.released .idle 0x00 true 1 0x00
        (writeByteEvents (addrByte s.saddr false) true false true ++ stopEvents)
    else
      commandEnd s .sendByte Lines.released .idle 0x00 (s.nextDraw 1) 2 (if s.nextDraw 1 then 0x00 else 0x01)
        (writeByteEvents (addrByte s.saddr false) true false false ++ writeByteEvents s.wdata false true (s.nextDraw 1))) := by
  have hexec : exec .sendByte s = .next (procSendByte (accept .sendByte s)) := exec_instr_of_idle hbusy .sendByte
  have hsaddr : (accept .sendByte s).saddrL = s.saddr := rfl
  rw [hexec]
  simp only [procSendByte, hsaddr, firstByte_eq, acked_commandMid, dataL_commandMid, writeByte_commandMid]
  cases h0 : s.nextDraw 0
  case true => simp [nakAbort_stop_commandMid]
  case false => cases h1 : s.nextDraw 1 <;> simp [finish_commandMid, boolResult, Lines.released]

/-- RECEIVE_BYTE (R167). -/
theorem exec_receiveByte_eq : exec .receiveByte s = .next
    (if s.nextDraw 0 then
      (if s.cfg.rbNakStop then
        commandEnd s .receiveByte Lines.released .idle 0x00 true 1 0x00
          (writeByteEvents (addrByte s.saddr true) true false true ++ stopEvents)
      else
        commandEnd s .receiveByte Lines.held .active 0x00 true 1 0x00
          (writeByteEvents (addrByte s.saddr true) true false true))
    else
      commandEnd s .receiveByte Lines.released .idle (bitsByte (s.nextDraws 1 8)) false 9 (bitsByte (s.nextDraws 1 8))
        (writeByteEvents (addrByte s.saddr true) true false false ++ readByteEvents (s.nextDraws 1 8) false true)) := by
  have hexec : exec .receiveByte s = .next (procReceiveByte (accept .receiveByte s)) := exec_instr_of_idle hbusy .receiveByte
  have hsaddr : (accept .receiveByte s).saddrL = s.saddr := rfl
  rw [hexec]
  simp only [procReceiveByte, hsaddr, firstByte_eq, acked_commandMid, cfg_commandMid, readByte_commandMid, sr_commandMid]
  cases h0 : s.nextDraw 0
  case true => cases hstop : s.cfg.rbNakStop <;> simp [nakAbort_stop_commandMid, nakAbort_open_commandMid]
  case false => simp [finish_commandMid]

/-- SEND_BYTE_DATA (R168). -/
theorem exec_sendByteData_eq : exec .sendByteData s = .next
    (if s.nextDraw 0 then
      commandEnd s .sendByteData Lines.released .idle 0x00 true 1 0x00
        (writeByteEvents (addrByte s.saddr false) true false true ++ stopEvents)
    else if s.nextDraw 1 then
      commandEnd s .sendByteData Lines.released .idle 0x00 true 2 0x00
        (writeByteEvents (addrByte s.saddr false) true false false ++ writeByteEvents s.regsel false false true ++ stopEvents)
    else
      commandEnd s .sendByteData Lines.released .idle 0x00 (s.nextDraw 2) 3 (if s.nextDraw 2 then 0x00 else 0x01)
        (writeByteEvents (addrByte s.saddr false) true false false ++ writeByteEvents s.regsel false false false ++
          writeByteEvents s.wdata false true (s.nextDraw 2))) := by
  have hexec : exec .sendByteData s = .next (procSendByteData (accept .sendByteData s)) :=
    exec_instr_of_idle hbusy .sendByteData
  have hsaddr : (accept .sendByteData s).saddrL = s.saddr := rfl
  rw [hexec]
  simp only [procSendByteData, hsaddr, firstByte_eq, acked_commandMid, regL_commandMid, dataL_commandMid,
    writeByte_commandMid]
  cases h0 : s.nextDraw 0
  case true => simp [nakAbort_stop_commandMid]
  case false =>
    cases h1 : s.nextDraw 1
    case true => simp [nakAbort_stop_commandMid]
    case false => cases h2 : s.nextDraw 2 <;> simp [finish_commandMid, boolResult, Lines.released]

/-- RECEIVE_BYTE_DATA (R169). -/
theorem exec_receiveByteData_eq : exec .receiveByteData s = .next
    (if s.nextDraw 0 then
      commandEnd s .receiveByteData Lines.released .idle 0x00 true 1 0x00
        (writeByteEvents (addrByte s.saddr false) true false true ++ stopEvents)
    else if s.nextDraw 1 then
      commandEnd s .receiveByteData Lines.released .idle 0x00 true 2 0x00
        (writeByteEvents (addrByte s.saddr false) true false false ++ writeByteEvents s.regsel false false true ++ stopEvents)
    else if s.nextDraw 2 then
      commandEnd s .receiveByteData Lines.released .idle 0x00 true 3 0x00
        (writeByteEvents (addrByte s.saddr false) true false false ++ writeByteEvents s.regsel false false false ++
          writeByteEvents (addrByte s.saddr true) true false true ++ stopEvents)
    else
      commandEnd s .receiveByteData Lines.released .idle (bitsByte (s.nextDraws 3 8)) false 11 (bitsByte (s.nextDraws 3 8))
        (writeByteEvents (addrByte s.saddr false) true false false ++ writeByteEvents s.regsel false false false ++
          writeByteEvents (addrByte s.saddr true) true false false ++ readByteEvents (s.nextDraws 3 8) false true)) := by
  have hexec : exec .receiveByteData s = .next (procReceiveByteData (accept .receiveByteData s)) :=
    exec_instr_of_idle hbusy .receiveByteData
  have hsaddr : (accept .receiveByteData s).saddrL = s.saddr := rfl
  rw [hexec]
  simp only [procReceiveByteData, hsaddr, firstByte_eq, acked_commandMid, saddrL_commandMid, regL_commandMid,
    writeByte_commandMid, readByte_commandMid, sr_commandMid]
  cases h0 : s.nextDraw 0
  case true => simp [nakAbort_stop_commandMid]
  case false =>
    cases h1 : s.nextDraw 1
    case true => simp [nakAbort_stop_commandMid]
    case false =>
      cases h2 : s.nextDraw 2
      case true => simp [nakAbort_stop_commandMid]
      case false => simp [finish_commandMid]

end

/-! ## The statements -/

/-- Settles O42: the two paths are those of `exec_sendByte_eq`. -/
theorem sendByteWritesOneByte : Obligations.SendByteWritesOneByte := by
  unfold Obligations.SendByteWritesOneByte
  intro s hbusy
  rw [exec_sendByte_eq hbusy]
  exact ⟨fun h0 => by rw [if_pos h0], fun h0 => by simp [h0]⟩

/-- Settles O43: the three paths are those of `exec_receiveByte_eq`. -/
theorem receiveByteReadsOneByte : Obligations.ReceiveByteReadsOneByte := by
  unfold Obligations.ReceiveByteReadsOneByte
  intro s hbusy
  rw [exec_receiveByte_eq hbusy]
  exact ⟨fun h0 hstop => by rw [if_pos h0, if_pos hstop], fun h0 hstop => by simp [h0, hstop, Lines.held],
    fun h0 => by simp [h0]⟩

/-- Settles O44: the three paths are those of `exec_sendByteData_eq`. -/
theorem sendByteDataWritesRegisterAndByte : Obligations.SendByteDataWritesRegisterAndByte := by
  unfold Obligations.SendByteDataWritesRegisterAndByte
  intro s hbusy
  rw [exec_sendByteData_eq hbusy]
  exact ⟨fun h0 => by rw [if_pos h0], fun h0 h1 => by simp [h0, h1], fun h0 h1 => by simp [h0, h1]⟩

/-- Settles O45: the four paths are those of `exec_receiveByteData_eq`. -/
theorem receiveByteDataReadsAfterARepeatedStart : Obligations.ReceiveByteDataReadsAfterARepeatedStart := by
  unfold Obligations.ReceiveByteDataReadsAfterARepeatedStart
  intro s hbusy
  rw [exec_receiveByteData_eq hbusy]
  exact ⟨fun h0 => by rw [if_pos h0], fun h0 h1 => by simp [h0, h1], fun h0 h1 h2 => by simp [h0, h1, h2],
    fun h0 h1 h2 => by simp [h0, h1, h2]⟩

end Sys2Proof.Machine
end

section
/-! PROOFS. The invariant of a block driven by its host (10_state.md R25, R28, R38, R41; 70_reset_and_hazards.md R239): safe
work stays safe uop by uop and through the register transfers and branches behind it, so every cycle and every step keeps
the invariant, and in it SDA changes with SCL released only as a condition. -/

namespace Sys2Proof.Machine

open Sys2Proof

/-! ## The invariant in its parts -/

/-- The lines at rest (R41): released in IDLE, or held in ACTIVE where RB_NAK_STOP = 0 left the transaction open. -/
theorem quietLines_iff {rbNakStop : Bool} {l : Lines} {f : Framing} :
    quietLines rbNakStop l f = true ↔
      (l = Lines.released ∧ f = .idle) ∨ (l = Lines.held ∧ f = .active ∧ rbNakStop = false) := by
  obtain ⟨scl, sda⟩ := l
  cases f <;> simp [quietLines, Lines.released, Lines.held, and_assoc]

/-- With no command running: no position, no DELAY under way, and the lines at rest (R25, R38, R41). -/
def State.AtRest (s : State) : Prop :=
  s.seq = .idle ∧ s.dcnt = 0 ∧ quietLines s.cfg.rbNakStop s.lines s.framing = true

/-- This work can be performed safely from this state: it is safe for the drivers and the framing, and BITCNT has room for
the data bit under way. A conjunction about a few fields, so that an update of any other field keeps it by definition. -/
def SafeAt (ws : List Work) (s : State) : Prop :=
  safeFrom s.cfg.rbNakStop ws s.lines s.framing = true ∧ (countPending ws = true → s.bitcnt.toNat < 8) ∧ s.bitcnt.toNat ≤ 8

theorem SafeAt.safe {ws : List Work} {s : State} (h : SafeAt ws s) :
    safeFrom s.cfg.rbNakStop ws s.lines s.framing = true := h.1

theorem SafeAt.room {ws : List Work} {s : State} (h : SafeAt ws s) : countPending ws = true → s.bitcnt.toNat < 8 := h.2.1

theorem SafeAt.count {ws : List Work} {s : State} (h : SafeAt ws s) : s.bitcnt.toNat ≤ 8 := h.2.2

/-- A command is at a position between two cycles from which the rest of it is safe. -/
def State.AtSafePosition (s : State) : Prop :=
  ∃ ws, s.seq = .at ws ∧ startsAtUop ws = true ∧ SafeAt ws s ∧
    (s.dcnt = 0 ∨ (startsAtDelay ws = true ∧ s.dcnt < s.cfg.delayCycles))

/-- The part of the invariant that the sequencer is answerable for. -/
def State.Sound (s : State) : Prop :=
  s.bitcnt.toNat ≤ 8 ∧ ((s.busy = false ∧ s.AtRest) ∨ (s.busy = true ∧ s.AtSafePosition))

/-- The invariant is a BBM's parameters, a host's script, and a sound sequencer. -/
theorem State.inv_iff {s : State} :
    s.inv = true ↔ s.cfg.wellFormed = true ∧ s.inputs.all hostEntry = true ∧ s.Sound := by
  simp only [State.inv, State.Sound, Bool.and_eq_true, decide_eq_true_eq, and_assoc]
  refine and_congr_right fun _ => and_congr_right fun _ => and_congr_right fun hcount => ?_
  cases hbusy : s.busy <;> cases hseq : s.seq
  case false.idle => simp [State.AtRest, hseq]
  case false.at => simp [State.AtRest, hseq]
  case true.idle => simp [State.AtSafePosition, hseq]
  case true.at ws =>
    simp only [positionOk, State.AtSafePosition, hseq, Bool.and_eq_true, Bool.or_eq_true, Bool.not_eq_true',
      decide_eq_true_eq, Seq.at.injEq, exists_eq_left', Bool.true_eq_false, false_and, false_or, true_and, and_assoc]
    constructor
    · rintro ⟨hstart, hsafe, hroom, hdcnt⟩
      exact ⟨hstart, ⟨hsafe, fun h => hroom.resolve_left (by simp [h]), hcount⟩, hdcnt⟩
    · rintro ⟨hstart, ⟨hsafe, hroom, -⟩, hdcnt⟩
      refine ⟨hstart, hsafe, ?_, hdcnt⟩
      cases h : countPending ws
      · exact .inl rfl
      · exact .inr (hroom h)

/-! ## Safe work stays safe -/

/-- A uop leaves the work behind it safe. -/
theorem SafeAt.afterUop {u : Uop} {ws : List Work} {s : State} (h : SafeAt (.micro (.uop u) :: ws) s) :
    SafeAt ws (doUop u s) := by
  obtain ⟨hsafe, hroom, hcount⟩ := h
  cases u with
  | relScl | drvScl => exact ⟨hsafe, hroom, hcount⟩
  | relSda | drvSda => exact ⟨(Bool.and_eq_true_iff.mp hsafe).2, hroom, hcount⟩
  | delay => rw [doUop, State.delayUop_eq]; exact ⟨hsafe, hroom, hcount⟩
  | sampleSda =>
    cases hsda : s.sdaOe
    · rw [doUop, (State.sampleSda_released hsda).2]; exact ⟨hsafe, hroom, hcount⟩
    · rw [doUop, (State.sampleSda_driven hsda).2]; exact ⟨hsafe, hroom, hcount⟩

/-- A uop or a register transfer leaves the work behind it safe. -/
theorem SafeAt.afterMicro {m : Micro} {ws : List Work} {s : State} (h : SafeAt (.micro m :: ws) s) :
    SafeAt ws (doMicro m s) := by
  cases m with
  | uop u => exact h.afterUop
  | framing f => exact ⟨(Bool.and_eq_true_iff.mp h.safe).2, h.room, h.count⟩
  | load src => exact ⟨h.safe, fun _ => Nat.zero_lt_succ 7, Nat.zero_le 8⟩
  | clear => exact ⟨h.safe, fun _ => Nat.zero_lt_succ 7, Nat.zero_le 8⟩
  | store use b => cases use <;> exact h
  | countBit =>
    obtain ⟨hloop, hsafe⟩ := Bool.and_eq_true_iff.mp h.safe
    have hroom : s.bitcnt.toNat < 8 := h.room rfl
    have hcount : (s.bitcnt + 1).toNat ≤ 8 := by bv_omega
    have hnone : countPending ws = false := by
      match ws, hloop with
      | .sendBits :: _, _ => rfl
      | .recvBits :: _, _ => rfl
    exact ⟨hsafe, by simp [hnone], hcount⟩

/-- A WRITE_BIT with SCL driven is safe where the work behind it is safe with SCL driven and SDA as sent (R130, R132). -/
theorem safeFrom_writeBit {rb : Bool} {ws : List Work} {l : Lines} {f : Framing} (v : Bool) (hscl : l.sclOe = true) :
    safeFrom rb (micros (writeBitMicros v) ++ ws) l f = safeFrom rb ws { sclOe := true, sdaOe := !v } f := by
  cases v <;> simp [micros, writeBitMicros, safeFrom, hscl]

/-- A READ_BIT with SCL driven is safe where the work behind it is safe with SCL driven and SDA released (R131, R132). -/
theorem safeFrom_readBit {rb : Bool} {ws : List Work} {l : Lines} {f : Framing} (use : BitUse) (hscl : l.sclOe = true) :
    safeFrom rb (readBitWork use ++ ws) l f = safeFrom rb ws Lines.held f := by
  simp [readBitWork, micros, readBitMicros, safeFrom, hscl, Lines.held]

/-- The STOP of an abort is safe with SCL driven, and leaves the lines at rest (R122, R163). -/
theorem safeFrom_nakStop {rb : Bool} {l : Lines} {f : Framing} (hscl : l.sclOe = true) :
    safeFrom rb (micros stopMicros ++ [.finish .failure]) l f = true := by
  simp [micros, stopMicros, safeFrom, hscl, setsFraming, startsAtUop, quietLines]

/-! ## Settling reaches a safe position -/

/-- Setting the position is all that settling does where the work begins with a uop or the completion. -/
theorem settle_of_startsAtUop {ws : List Work} (h : startsAtUop ws = true) (s : State) :
    settle ws s = s.setSeq (.at ws) := by
  match ws, h with
  | .micro (.uop _) :: _, _ => rfl
  | .sampleEnd _ :: _, _ => rfl
  | .finish _ :: _, _ => rfl

/-- A turn of WRITE_BYTE's loop is safe where the loop is, whichever bit it sends (R132, R143). -/
theorem SafeAt.sendTurn {ws : List Work} {s : State} (h : SafeAt (.sendBits :: ws) s) (h8 : s.bitcnt ≠ 8) (v : Bool) :
    SafeAt (micros (writeBitMicros v) ++ [.micro .countBit, .sendBits] ++ ws) s := by
  obtain ⟨hsafe, -, hcount⟩ := h
  simp only [safeFrom, Bool.and_eq_true, decide_eq_true_eq] at hsafe
  obtain ⟨⟨⟨⟨hscl, hactive⟩, hnone⟩, hreleased⟩, hdriven⟩ := hsafe
  refine ⟨?_, fun _ => by bv_omega, hcount⟩
  rw [hactive] at hreleased hdriven
  rw [List.append_assoc, safeFrom_writeBit v hscl]
  cases v <;> simp [safeFrom, atLoop, hactive, hnone, hreleased, hdriven]

/-- A turn of READ_BYTE's loop is safe where the loop is (R132, R144). -/
theorem SafeAt.recvTurn {ws : List Work} {s : State} (h : SafeAt (.recvBits :: ws) s) (h8 : s.bitcnt ≠ 8) :
    SafeAt (readBitWork .shiftIn ++ [.micro .countBit, .recvBits] ++ ws) s := by
  obtain ⟨hsafe, -, hcount⟩ := h
  simp only [safeFrom, Bool.and_eq_true, decide_eq_true_eq] at hsafe
  obtain ⟨⟨⟨⟨hscl, hactive⟩, hnone⟩, hreleased⟩, -⟩ := hsafe
  refine ⟨?_, fun _ => by bv_omega, hcount⟩
  rw [hactive] at hreleased
  rw [List.append_assoc, safeFrom_readBit .shiftIn hscl]
  simp [safeFrom, atLoop, hactive, hnone, hreleased, Lines.held]

/-- Behind a loop that is over the work is safe. -/
theorem SafeAt.afterSend {ws : List Work} {s : State} (h : SafeAt (.sendBits :: ws) s) : SafeAt ws s := by
  obtain ⟨hsafe, -, hcount⟩ := h
  simp only [safeFrom, Bool.and_eq_true, Bool.not_eq_true'] at hsafe
  obtain ⟨⟨⟨⟨hscl, -⟩, hnone⟩, hreleased⟩, hdriven⟩ := hsafe
  refine ⟨?_, by simp [hnone], hcount⟩
  have hlines : s.lines = { sclOe := true, sdaOe := s.sdaOe } := by rw [← hscl]; rfl
  rw [hlines]
  cases s.sdaOe
  · exact hreleased
  · exact hdriven

theorem SafeAt.afterRecv {ws : List Work} {s : State} (h : SafeAt (.recvBits :: ws) s) : SafeAt ws s := by
  obtain ⟨hsafe, -, hcount⟩ := h
  simp only [safeFrom, Bool.and_eq_true, Bool.not_eq_true'] at hsafe
  obtain ⟨⟨⟨-, hnone⟩, -⟩, hrest⟩ := hsafe
  exact ⟨hrest, by simp [hnone], hcount⟩

/-- Behind an acknowledge the command goes on safely. -/
theorem SafeAt.afterAck {stop : Bool} {ws : List Work} {s : State} (h : SafeAt (.nakExit stop :: ws) s) : SafeAt ws s := by
  obtain ⟨hsafe, -, hcount⟩ := h
  simp only [safeFrom, Bool.and_eq_true, Bool.not_eq_true'] at hsafe
  obtain ⟨⟨-, hnone⟩, hrest⟩ := hsafe
  exact ⟨hrest, by simp [hnone], hcount⟩

/-- After a NAK the abort is safe, with its STOP or without (R163). -/
theorem SafeAt.nakAbort {stop : Bool} {ws : List Work} {s : State} (h : SafeAt (.nakExit stop :: ws) s) :
    SafeAt ((if stop then micros stopMicros else []) ++ [.finish .failure]) s := by
  obtain ⟨hsafe, -, hcount⟩ := h
  simp only [safeFrom, Bool.and_eq_true] at hsafe
  obtain ⟨⟨hexit, -⟩, -⟩ := hsafe
  cases stop
  · exact ⟨hexit, by simp [countPending], hcount⟩
  · exact ⟨safeFrom_nakStop hexit, by simp [micros, stopMicros, countPending], hcount⟩

/-- From safe work, settling reaches a position with safe work (R140, R241). -/
theorem SafeAt.settle {ws : List Work} {s : State} (h : SafeAt ws s) :
    ∃ vs, (settle ws s).seq = .at vs ∧ startsAtUop vs = true ∧ SafeAt vs (settle ws s) := by
  induction ws generalizing s with
  | nil => exact absurd h.safe (by simp [safeFrom])
  | cons w ws ih =>
    cases w with
    | micro m =>
      cases m with
      | uop u => exact ⟨_, rfl, rfl, h.safe, h.room, h.count⟩
      | framing | load | clear | countBit | store => exact ih h.afterMicro
    | sampleEnd use => exact ⟨_, rfl, rfl, h.safe, h.room, h.count⟩
    | sendBits =>
      rw [Machine.settle]
      split
      case isTrue => exact ih h.afterSend
      case isFalse h8 =>
        exact ⟨_, rfl, rfl, h.sendTurn h8 s.outBit⟩
    | recvBits =>
      rw [Machine.settle]
      split
      case isTrue => exact ih h.afterRecv
      case isFalse h8 =>
        exact ⟨_, rfl, rfl, h.recvTurn h8⟩
    | nakExit stop =>
      rw [Machine.settle]
      split
      · exact ⟨_, rfl, by cases stop <;> rfl, h.nakAbort⟩
      · exact ih h.afterAck
    | finish k => exact ⟨_, rfl, rfl, h.safe, h.room, h.count⟩

/-! ## Every cycle keeps the invariant -/

theorem State.Sound.of_busy {s : State} (hbusy : s.busy = true) (h : s.AtSafePosition) : s.Sound := by
  obtain ⟨ws, hseq, hstart, hws, hdcnt⟩ := h
  exact ⟨hws.count, .inr ⟨hbusy, ws, hseq, hstart, hws, hdcnt⟩⟩

/-- Settling from safe work, with no DELAY under way, is sound. -/
theorem SafeAt.sound_settle {ws : List Work} {s : State} (h : SafeAt ws s) (hbusy : s.busy = true) (hdcnt : s.dcnt = 0) :
    (Machine.settle ws s).Sound := by
  obtain ⟨vs, hseq, hstart, hvs⟩ := h.settle
  exact .of_busy (by rw [settle_frame]; exact hbusy) ⟨vs, hseq, hstart, hvs, .inl (by rw [settle_frame]; exact hdcnt)⟩

/-- A cycle of a DELAY ends it and settles behind it, or goes on counting, below DELAY_CYCLES (R107). -/
theorem delayCycle_cases (rest : List Work) (s : State) :
    delayCycle rest s = settle rest ((s.setDcnt 0).emit .delay) ∨
      ∃ d, delayCycle rest s = s.setDcnt d ∧
        (1 ≤ s.cfg.delayCycles → s.dcnt = 0 ∨ s.dcnt < s.cfg.delayCycles → d < s.cfg.delayCycles) := by
  have hlt : 1 ≤ s.cfg.delayCycles → s.dcnt = 0 ∨ s.dcnt < s.cfg.delayCycles →
      (if s.dcnt = 0 then s.cfg.delayCycles else s.dcnt) - 1 < s.cfg.delayCycles := by
    split <;> omega
  rw [delayCycle]
  generalize (if s.dcnt = 0 then s.cfg.delayCycles else s.dcnt) - 1 = d at hlt
  obtain rfl | hd := eq_or_ne d 0
  · exact .inl rfl
  · exact .inr ⟨d, if_neg hd, hlt⟩

theorem sound_cycle_delay {rest : List Work} {s : State} (hbusy : s.busy = true)
    (hseq : s.seq = .at (.micro (.uop .delay) :: rest)) (h : SafeAt (.micro (.uop .delay) :: rest) s)
    (hdcnt : s.dcnt = 0 ∨ s.dcnt < s.cfg.delayCycles) (hpos : 1 ≤ s.cfg.delayCycles) : (sequencerCycle s).Sound := by
  simp only [sequencerCycle, hseq]
  obtain hend | ⟨d, hcount, hlt⟩ := delayCycle_cases rest s
  · have hrest : SafeAt rest ((s.setDcnt 0).emit .delay) := h
    rw [hend]
    exact hrest.sound_settle hbusy rfl
  · rw [hcount]
    exact .of_busy hbusy ⟨_, hseq, rfl, h, .inr ⟨rfl, hlt hpos hdcnt⟩⟩

/-- A sample leaves the DRV_SCL that ends READ_BIT, and the store of the bit, safe (R131). -/
theorem SafeAt.afterSample {use : BitUse} {rest : List Work} {s : State} (h : SafeAt (.sampleEnd use :: rest) s)
    (b : Bool) : SafeAt (.micro (.uop .drvScl) :: .micro (.store use b) :: rest) s.sampleSda := by
  have hsample : SafeAt (.micro (.uop .sampleSda) :: .micro (.uop .drvScl) :: .micro (.store use b) :: rest) s := h
  exact hsample.afterUop

/-- One cycle of the sequencer from a safe position: the completion leaves the lines at rest, everything else a safe
position again. -/
theorem sound_sequencerCycle {s : State} (hbusy : s.busy = true) (h : s.AtSafePosition) (hpos : 1 ≤ s.cfg.delayCycles) :
    (sequencerCycle s).Sound := by
  obtain ⟨ws, hseq, hstart, hws, hdcnt⟩ := h
  match ws, hstart with
  | .micro (.uop u) :: rest, _ =>
    obtain rfl | hu := eq_or_ne u .delay
    · exact sound_cycle_delay hbusy hseq hws (hdcnt.imp_right And.right) hpos
    · have hdcnt0 : s.dcnt = 0 := hdcnt.resolve_right fun ⟨hdelay, _⟩ => by cases u <;> simp_all [startsAtDelay]
      rw [sequencerCycle_uop hu hseq]
      exact hws.afterUop.sound_settle (by rw [doUop_frame]; exact hbusy) ((dcnt_doUop hu s).trans hdcnt0)
  | .sampleEnd use :: rest, _ =>
    have hdcnt0 : s.dcnt = 0 := hdcnt.resolve_right fun ⟨hdelay, _⟩ => by simp [startsAtDelay] at hdelay
    have hsampled : s.sampleSda.busy = true ∧ s.sampleSda.dcnt = 0 := by
      refine ⟨?_, (dcnt_doUop (u := .sampleSda) (by decide) s).trans hdcnt0⟩
      have hframe := congrArg (·.busy) (doUop_frame .sampleSda s)
      exact hframe.trans hbusy
    simp only [sequencerCycle, hseq]
    exact .of_busy hsampled.1 ⟨_, rfl, rfl, hws.afterSample s.sampledBit, .inl hsampled.2⟩
  | .finish k :: rest, _ =>
    have hdcnt0 : s.dcnt = 0 := hdcnt.resolve_right fun ⟨hdelay, _⟩ => by simp [startsAtDelay] at hdelay
    simp only [sequencerCycle, hseq]
    exact ⟨hws.count, .inl ⟨rfl, rfl, hdcnt0, hws.safe⟩⟩

/-- The procedure of every command is safe from the lines at rest (R41, R239). -/
theorem safeFrom_procedureOf {cfg : Config} {l : Lines} {f : Framing} (h : quietLines cfg.rbNakStop l f = true) (c : Cmd) :
    safeFrom cfg.rbNakStop (procedureOf cfg c) l f = true := by
  obtain ⟨nGpio, sclPin, sdaPin, delayCycles, rb⟩ := cfg
  obtain ⟨rfl, rfl⟩ | ⟨rfl, rfl, hrb⟩ := quietLines_iff.mp h
  · cases rb <;> cases c <;> rfl
  · obtain rfl : rb = false := hrb
    cases c <;> rfl

/-- No procedure begins within a data bit. -/
theorem countPending_procedureOf (cfg : Config) (c : Cmd) : countPending (procedureOf cfg c) = false := by
  cases c <;> rfl

/-- Acceptance from rest begins at a safe position (R160). -/
theorem sound_accept {s : State} (hcount : s.bitcnt.toNat ≤ 8) (h : s.AtRest) (c : Cmd) : (accept c s).Sound := by
  obtain ⟨-, hdcnt, hquiet⟩ := h
  exact .of_busy rfl ⟨procedureOf s.cfg c, rfl, by cases c <;> rfl,
    ⟨safeFrom_procedureOf hquiet c, by simp [countPending_procedureOf], hcount⟩, .inl hdcnt⟩

/-! ## The host's accesses and the clock cycle -/

/-- What an access leaves alone on an idle block, unless it is a command write that is accepted (R160). -/
theorem hostAccess_frame_of_idle (a : Access) (s : State) :
    (∃ c : Cmd, a = .wr 0 c.code ∧ s.busy = false ∧ hostAccess a s = accept c s) ∨
    hostAccess a s = { s with saddr := (hostAccess a s).saddr, regsel := (hostAccess a s).regsel,
                              wdata := (hostAccess a s).wdata, reads := (hostAccess a s).reads } := by
  cases a with
  | none | rd => exact .inr rfl
  | wr off v =>
    dsimp only [hostAccess]
    obtain ⟨rfl, h⟩ | ⟨-, h⟩ | ⟨-, h⟩ | ⟨-, h⟩ | ⟨-, -, -, -, h⟩ := regWrite_cases off v s <;> rw [h]
    case inl =>
      obtain hnone | ⟨c, hc, hidle, haccept⟩ := writeCmd_cases v s
      · exact .inr (by rw [hnone])
      · exact .inl ⟨c, by rw [Cmd.code_of_ofCode hc], hidle, haccept⟩
    all_goals exact .inr rfl

/-- A clock cycle without a command running is the host's access. -/
theorem clockCycle_of_idle {s : State} (hidle : s.busy = false) (a : Access) :
    clockCycle a s = hostAccess a (s.setResetHeld false) :=
  if_neg (by simp [hidle])

/-- A clock cycle keeps the sequencer's part of the invariant, whatever the host does in it. -/
theorem sound_clockCycle {s : State} (h : s.Sound) (hpos : 1 ≤ s.cfg.delayCycles) (a : Access) :
    (clockCycle a s).Sound := by
  obtain ⟨hcount, ⟨hidle, hrest⟩ | ⟨hbusy, hposition⟩⟩ := h
  · rw [clockCycle_of_idle hidle]
    obtain ⟨c, -, -, haccept⟩ | hframe := hostAccess_frame_of_idle a (s.setResetHeld false)
    · rw [haccept]
      exact sound_accept (s := s.setResetHeld false) hcount hrest c
    · rw [hframe]
      exact ⟨hcount, .inl ⟨hidle, hrest⟩⟩
  · have hframe := hostAccess_frame_of_busy (s := s.setResetHeld false) hbusy a
    rw [clockCycle_of_busy hbusy]
    refine sound_sequencerCycle ?_ ?_ ?_
    · rw [hframe]; exact hbusy
    · rw [hframe]; exact hposition
    · rw [cfg_hostAccess]; exact hpos

/-- An access leaves the script alone. -/
theorem inputs_hostAccess (a : Access) (s : State) : (hostAccess a s).inputs = s.inputs := by
  obtain ⟨c, -, -, haccept⟩ | hframe := hostAccess_frame_of_idle a s
  · rw [haccept]; rfl
  · rw [hframe]

/-- A clock cycle leaves the script alone. -/
theorem inputs_clockCycle (a : Access) (s : State) : (clockCycle a s).inputs = s.inputs := by
  have haccess : (hostAccess a (s.setResetHeld false)).inputs = s.inputs := inputs_hostAccess a _
  unfold clockCycle
  dsimp only
  split
  · exact (congrArg HostSide.inputs (hostSide_sequencerCycle _)).trans haccess
  · exact haccess

/-- A clock cycle keeps the invariant. -/
theorem inv_clockCycle {s : State} (hinv : s.inv = true) (a : Access) : (clockCycle a s).inv = true := by
  obtain ⟨hwf, hscript, hsound⟩ := State.inv_iff.mp hinv
  refine State.inv_iff.mpr ⟨?_, ?_, sound_clockCycle hsound (one_le_delayCycles hwf) a⟩
  · rwa [cfg_clockCycle]
  · rwa [inputs_clockCycle]

/-! ## The step -/

/-- The invariant holds on with a shorter script. -/
theorem inv_setInputs {s : State} {e : Input} {rest : List Input} (hinv : s.inv = true) (hin : s.inputs = e :: rest) :
    (s.setInputs rest).inv = true := by
  obtain ⟨hwf, hscript, hsound⟩ := State.inv_iff.mp hinv
  rw [hin, List.all_cons, Bool.and_eq_true] at hscript
  exact State.inv_iff.mpr ⟨hwf, hscript.2, hsound⟩

theorem inv_waitCycle {s : State} {rest : List Input} (hinv : s.inv = true) (hin : s.inputs = .wait :: rest) :
    (waitCycle rest s).inv = true := by
  rw [waitCycle]
  split
  · exact inv_clockCycle hinv _
  · exact inv_clockCycle (inv_setInputs hinv hin) _

/-- A reset leaves the lines at rest whatever was running (R40). -/
theorem inv_resetCycle {s : State} (hinv : s.inv = true) (a : Access) : (resetCycle a s).inv = true := by
  obtain ⟨hwf, hscript, -⟩ := State.inv_iff.mp hinv
  have hsound : s.resetFields.Sound := ⟨Nat.zero_le 8, .inl ⟨rfl, rfl, rfl, rfl⟩⟩
  cases a <;> exact State.inv_iff.mpr ⟨hwf, hscript, hsound⟩

/-- A completed command leaves the lines at rest (R41, R166). -/
theorem sound_commandEnd {s : State} {l : Lines} {f : Framing} (hquiet : quietLines s.cfg.rbNakStop l f = true) (c : Cmd)
    (sr : Byte) (ackb : Bool) (k : Nat) (r : Byte) (es : List Event) : (commandEnd s c l f sr ackb k r es).Sound :=
  ⟨Nat.le_refl 8, .inl ⟨rfl, rfl, rfl, hquiet⟩⟩

/-- Every command that transfers bytes begins with a START and completes with the lines at rest. -/
theorem exec_instr_eq_commandEnd {s : State} (hbusy : s.busy = false) {c : Cmd} (hc : c ≠ .init) :
    ∃ l f sr ackb k r es, exec c.instr s = .next (commandEnd s c l f sr ackb k r (startEvents ++ es)) ∧
      quietLines s.cfg.rbNakStop l f = true := by
  have hbyte (x : Byte) (b : Bool) :
      writeByteEvents x true false b = startEvents ++ writeByteEvents x false false b := by simp [writeByteEvents]
  have hreleased : quietLines s.cfg.rbNakStop Lines.released .idle = true := rfl
  cases c with
  | init => exact absurd rfl hc
  | sendByte =>
    rw [Cmd.instr, exec_sendByte_eq hbusy]
    simp only [hbyte, List.append_assoc]
    split <;> exact ⟨_, _, _, _, _, _, _, rfl, hreleased⟩
  | receiveByte =>
    rw [Cmd.instr, exec_receiveByte_eq hbusy]
    simp only [hbyte, List.append_assoc]
    split
    · split
      case isTrue => exact ⟨_, _, _, _, _, _, _, rfl, hreleased⟩
      case isFalse hstop => exact ⟨_, _, _, _, _, _, _, rfl, by simp [quietLines, Lines.held, hstop]⟩
    · exact ⟨_, _, _, _, _, _, _, rfl, hreleased⟩
  | sendByteData =>
    rw [Cmd.instr, exec_sendByteData_eq hbusy]
    simp only [hbyte, List.append_assoc]
    split
    · exact ⟨_, _, _, _, _, _, _, rfl, hreleased⟩
    · split <;> exact ⟨_, _, _, _, _, _, _, rfl, hreleased⟩
  | receiveByteData =>
    rw [Cmd.instr, exec_receiveByteData_eq hbusy]
    simp only [hbyte, List.append_assoc]
    split
    · exact ⟨_, _, _, _, _, _, _, rfl, hreleased⟩
    · split
      · exact ⟨_, _, _, _, _, _, _, rfl, hreleased⟩
      · split <;> exact ⟨_, _, _, _, _, _, _, rfl, hreleased⟩

/-- With no command running INIT is accepted and runs to its end (R160, R164). -/
theorem exec_init_eq {s : State} (hbusy : s.busy = false) : exec .init s = .next (procInit (accept .init s)) :=
  exec_instr_of_idle hbusy .init

/-- A command executed whole while another runs is ignored (R161; log 3). -/
theorem exec_instr_of_busy {s : State} (hbusy : s.busy = true) (c : Cmd) : exec c.instr s = .next s := by
  cases c <;> exact if_pos hbusy

/-- A command run whole keeps the sequencer's part of the invariant: ignored it changes nothing, else it ends at rest. -/
theorem sound_exec_command {s t : State} {c : Cmd} (h : s.Sound) (hexec : exec c.instr s = .next t) : t.Sound := by
  cases hbusy : s.busy
  case true =>
    obtain rfl := exec_next_unique hexec (exec_instr_of_busy hbusy c)
    exact h
  case false =>
    obtain rfl | hc := eq_or_ne c .init
    · obtain rfl := exec_next_unique hexec (exec_init_eq hbusy)
      rw [procInit_eq]
      exact ⟨h.1, .inl ⟨rfl, rfl, rfl, rfl⟩⟩
    · obtain ⟨l, f, sr, ackb, k, r, es, hend, hquiet⟩ := exec_instr_eq_commandEnd hbusy hc
      obtain rfl := exec_next_unique hexec hend
      exact sound_commandEnd hquiet ..

/-- A word of a host's script that is executed is a command (R70). -/
theorem inv_word {s t : State} {w : EncWord} {rest : List Input} {i : Instr} (hinv : s.inv = true)
    (hin : s.inputs = .word w :: rest) (hdecode : decode w = .ok i) (hexec : exec i (s.pastWord rest) = .next t) :
    t.inv = true := by
  obtain ⟨hwf, hscript, hsound⟩ := State.inv_iff.mp (inv_setInputs hinv hin)
  obtain ⟨-, hentries, -⟩ := State.inv_iff.mp hinv
  obtain ⟨u, hu, hside⟩ := exec_keepsHostSide i (s.pastWord rest)
  obtain rfl := exec_next_unique hu hexec
  cases w with
  | cmd v =>
    obtain ⟨c, -, rfl⟩ := decode_cmd_eq_ok.mp hdecode
    have hcfg : u.cfg = (s.pastWord rest).cfg := State.cfg_eq_of_hostSide_eq hside
    have hinputs : u.inputs = rest := congrArg HostSide.inputs hside
    refine State.inv_iff.mpr ⟨?_, ?_, sound_exec_command (s := s.pastWord rest) hsound hexec⟩
    · rw [hcfg]; exact hwf
    · rw [hinputs]; exact hscript
  | uop | prim => simp [hin, hostEntry] at hentries

/-! ## The statements -/

/-- Settles O59: each kind of step keeps the invariant; the one cycle of the sequencer is `sound_sequencerCycle`. -/
theorem everyStepKeepsTheBlockInvariant : Obligations.EveryStepKeepsTheBlockInvariant := by
  unfold Obligations.EveryStepKeepsTheBlockInvariant
  intro s t hinv hstep
  obtain ⟨-, hcase⟩ := step_cases hstep
  obtain ⟨-, rfl⟩ | ⟨a, rest, hin, rfl⟩ | ⟨rest, hin, rfl⟩ | ⟨a, rest, hin, rfl⟩ | ⟨w, rest, i, hin, hdecode, hexec⟩ |
    ⟨v, rest, hin, -, rfl⟩ := hcase
  · exact inv_clockCycle hinv .none
  · exact inv_clockCycle (inv_setInputs hinv hin) a
  · exact inv_waitCycle hinv hin
  · exact inv_resetCycle (inv_setInputs hinv hin) a
  · exact inv_word hinv hin hdecode hexec
  · have hrest : (s.setInputs rest).inv = true := inv_setInputs hinv hin
    exact hrest

/-- Settles O58: the reset state is at rest. -/
theorem resetSatisfiesTheBlockInvariant : Obligations.ResetSatisfiesTheBlockInvariant := by
  unfold Obligations.ResetSatisfiesTheBlockInvariant
  exact State.inv_iff.mpr ⟨by decide, rfl, Nat.zero_le 8, .inl ⟨rfl, rfl, rfl, rfl⟩⟩

/-- Settles O60: with no command running the lines are quiet, which `quietLines_iff` reads off. -/
theorem restingBlockHasReleasedTheBus : Obligations.RestingBlockHasReleasedTheBus := by
  unfold Obligations.RestingBlockHasReleasedTheBus
  intro s hinv hidle
  obtain ⟨-, -, -, ⟨-, -, -, hquiet⟩ | ⟨hbusy, -⟩⟩ := State.inv_iff.mp hinv
  · obtain ⟨hlines, hframing⟩ | ⟨hlines, hframing, hrb⟩ := quietLines_iff.mp hquiet
    · simp [hlines, hframing]
    · simp [hlines, hframing, hrb, Lines.held]
  · simp [hidle] at hbusy

/-! ## A change of SDA with SCL released -/

/-- Settling moves no driver. -/
theorem lines_settle (ws : List Work) (s : State) : (settle ws s).lines = s.lines := by
  rw [settle_frame]; rfl

/-- A sample moves no driver (R105). -/
@[simp] theorem sdaOe_sampleSda (s : State) : s.sampleSda.sdaOe = s.sdaOe := by
  rw [State.sampleSda, State.emit_sdaOe]
  split <;> rfl

/-- Safe work that records a framing at once does so before the next uop (R120, R122). -/
theorem framing_settle_of_setsFraming {f : Framing} {ws : List Work} {s : State} (hf : setsFraming f ws = true)
    (h : SafeAt ws s) : (settle ws s).framing = f := by
  match ws, hf with
  | .micro (.framing g) :: rest, hf =>
    have hg : f = g := of_decide_eq_true hf
    have hstart : startsAtUop rest = true := (Bool.and_eq_true_iff.mp h.safe).1
    have hsettle : settle (.micro (.framing g) :: rest) s = settle rest (s.setFraming g) := rfl
    rw [hsettle, settle_of_startsAtUop hstart, hg]
    rfl

/-- In a safe position a cycle changes SDA with SCL released only as a start condition recorded as ACTIVE or a stop
condition recorded as IDLE (R112, R239). -/
theorem sequencerCycle_sdaChange {s : State} (h : s.AtSafePosition) (hscl : s.sclOe = false)
    (hsda : (sequencerCycle s).sdaOe ≠ s.sdaOe) :
    (sequencerCycle s).sclOe = false ∧ ((sequencerCycle s).sdaOe = true → (sequencerCycle s).framing = .active) ∧
      ((sequencerCycle s).sdaOe = false → (sequencerCycle s).framing = .idle) := by
  obtain ⟨ws, hseq, hstart, hws, hdcnt⟩ := h
  match ws, hstart with
  | .micro (.uop .delay) :: rest, _ =>
    simp only [sequencerCycle, hseq] at hsda
    obtain hend | ⟨d, hcount, -⟩ := delayCycle_cases rest s
    · rw [hend, settle_frame] at hsda; exact absurd rfl hsda
    · rw [hcount] at hsda; exact absurd rfl hsda
  | .micro (.uop .drvSda) :: rest, _ =>
    rw [sequencerCycle_uop (by decide) hseq] at hsda ⊢
    have hlines := lines_settle rest (doUop .drvSda s)
    have hscl' : (settle rest (doUop .drvSda s)).sclOe = false := (congrArg Lines.sclOe hlines).trans hscl
    have hsda' : (settle rest (doUop .drvSda s)).sdaOe = true := congrArg Lines.sdaOe hlines
    have hreleased : s.sdaOe = false := by simpa [hsda'] using hsda
    have hsets : setsFraming .active rest = true := by
      simpa [safeFrom, State.lines, hscl, hreleased] using (Bool.and_eq_true_iff.mp hws.safe).1
    exact ⟨hscl', fun _ => framing_settle_of_setsFraming hsets hws.afterUop, by simp [hsda']⟩
  | .micro (.uop .relSda) :: rest, _ =>
    rw [sequencerCycle_uop (by decide) hseq] at hsda ⊢
    have hlines := lines_settle rest (doUop .relSda s)
    have hscl' : (settle rest (doUop .relSda s)).sclOe = false := (congrArg Lines.sclOe hlines).trans hscl
    have hsda' : (settle rest (doUop .relSda s)).sdaOe = false := congrArg Lines.sdaOe hlines
    have hdriven : s.sdaOe = true := by simpa [hsda'] using hsda
    have hsets : setsFraming .idle rest = true := by
      simpa [safeFrom, State.lines, hscl, hdriven] using (Bool.and_eq_true_iff.mp hws.safe).1
    exact ⟨hscl', by simp [hsda'], fun _ => framing_settle_of_setsFraming hsets hws.afterUop⟩
  | .micro (.uop .relScl) :: rest, _ | .micro (.uop .drvScl) :: rest, _ | .micro (.uop .sampleSda) :: rest, _ =>
    rw [sequencerCycle_uop (by decide) hseq, settle_frame] at hsda
    exact absurd (by simp [doUop]) hsda
  | .sampleEnd use :: rest, _ =>
    simp only [sequencerCycle, hseq] at hsda
    exact absurd (by simp) hsda
  | .finish k :: rest, _ =>
    simp only [sequencerCycle, hseq] at hsda
    exact absurd rfl hsda

/-- The same of a clock cycle: acceptance moves no driver. -/
theorem clockCycle_sdaChange {s : State} (hinv : s.inv = true) (a : Access) (hscl : s.sclOe = false)
    (hsda : (clockCycle a s).sdaOe ≠ s.sdaOe) :
    (clockCycle a s).sclOe = false ∧ ((clockCycle a s).sdaOe = true → (clockCycle a s).framing = .active) ∧
      ((clockCycle a s).sdaOe = false → (clockCycle a s).framing = .idle) := by
  obtain ⟨-, -, -, ⟨hidle, -⟩ | ⟨hbusy, hposition⟩⟩ := State.inv_iff.mp hinv
  · rw [clockCycle_of_idle hidle] at hsda
    obtain ⟨c, -, -, haccept⟩ | hframe := hostAccess_frame_of_idle a (s.setResetHeld false)
    · rw [haccept] at hsda; exact absurd rfl hsda
    · rw [hframe] at hsda; exact absurd rfl hsda
  · have hframe := hostAccess_frame_of_busy (s := s.setResetHeld false) hbusy a
    rw [clockCycle_of_busy hbusy] at hsda ⊢
    rw [hframe] at hsda ⊢
    exact sequencerCycle_sdaChange hposition hscl hsda

/-- Settles O57: a cycle of any of the three kinds is a clock cycle from a state that meets the invariant. -/
theorem sdaChangesWithSclReleasedOnlyAsConditions : Obligations.SdaChangesWithSclReleasedOnlyAsConditions := by
  unfold Obligations.SdaChangesWithSclReleasedOnlyAsConditions
  intro s t hinv hin hstep hscl hsda
  obtain ⟨-, hcase⟩ := step_cases hstep
  obtain ⟨-, rfl⟩ | ⟨a, rest, hcycle, rfl⟩ | ⟨rest, hwait, rfl⟩ | ⟨a, rest, hrst, rfl⟩ | ⟨w, rest, i, hword, -, -⟩ |
    ⟨v, rest, hword, -, -⟩ := hcase
  · exact clockCycle_sdaChange hinv .none hscl hsda
  · exact clockCycle_sdaChange (inv_setInputs hinv hcycle) a hscl hsda
  · rw [waitCycle] at hsda ⊢
    split at hsda
    case isTrue h => rw [if_pos h]; exact clockCycle_sdaChange hinv _ hscl hsda
    case isFalse h => rw [if_neg h]; exact clockCycle_sdaChange (inv_setInputs hinv hwait) _ hscl hsda
  · simp [hrst] at hin
  · simp [hword] at hin
  · simp [hword] at hin

end Sys2Proof.Machine
end

section
/-! PROOFS. The host's port (20_memory.md R51 to R57, 44_transactions.md R160, R161): what an access stores reaches nothing
that the sequencer does, and what an accepted command write does. -/

namespace Sys2Proof.Machine

open Sys2Proof

/-! ## What work neither reads nor writes -/

/-- What a host access that starts no command can change: the operand registers (R31) and what the host has read. -/
structure Port where
  saddr : SlaveAddr
  regsel : Byte
  wdata : Byte
  reads : List HostRead

/-- What no uop and no register transfer reads or writes: the port, and the position of the sequencer. -/
structure Bystanders extends Port where
  seq : Seq

/-- A state with its bystanders changed. -/
def State.mapBystanders (p : Bystanders → Bystanders) (s : State) : State :=
  let b := p { saddr := s.saddr, regsel := s.regsel, wdata := s.wdata, reads := s.reads, seq := s.seq }
  { s with saddr := b.saddr, regsel := b.regsel, wdata := b.wdata, reads := b.reads, seq := b.seq }

/-- A state with its port changed. -/
def State.mapPort (p : Port → Port) : State → State := State.mapBystanders fun b => { b with toPort := p b.toPort }

section
variable (p : Bystanders → Bystanders)

theorem sampleSda_mapBystanders (s : State) : (s.mapBystanders p).sampleSda = s.sampleSda.mapBystanders p := by
  cases hsda : s.sdaOe
  · have hreleased : (s.mapBystanders p).sdaOe = false := hsda
    rw [(State.sampleSda_released hsda).2, (State.sampleSda_released hreleased).2]
    rfl
  · have hdriven : (s.mapBystanders p).sdaOe = true := hsda
    rw [(State.sampleSda_driven hsda).2, (State.sampleSda_driven hdriven).2]
    rfl

theorem doUop_mapBystanders (u : Uop) (s : State) : doUop u (s.mapBystanders p) = (doUop u s).mapBystanders p := by
  cases u with
  | relScl | drvScl | relSda | drvSda => rfl
  | delay => simp only [doUop, State.delayUop_eq]; rfl
  | sampleSda => exact sampleSda_mapBystanders p s

/-- The register transfers take their bytes from the latches, not from the port (R26). -/
theorem doMicro_mapBystanders (m : Micro) (s : State) :
    doMicro m (s.mapBystanders p) = (doMicro m s).mapBystanders p := by
  cases m with
  | uop u => exact doUop_mapBystanders p u s
  | load src => cases src <;> rfl
  | store use b => cases use <;> rfl
  | framing | clear | countBit => rfl

end

/-- Settling commutes with an update `g` that its transfers neither read nor write. Settling sets the position, so what is
left of `g` behind it may be less, `g'`. -/
theorem settle_comm {g g' : State → State} (hmicro : ∀ m s, doMicro m (g s) = g (doMicro m s))
    (hshift : ∀ s, (g s).shiftOut = g s.shiftOut)
    (hread : ∀ s, (g s).bitcnt = s.bitcnt ∧ (g s).outBit = s.outBit ∧ (g s).acked = s.acked)
    (hposition : ∀ q s, (g s).setSeq q = g' (s.setSeq q)) (ws : List Work) (s : State) :
    settle ws (g s) = g' (settle ws s) := by
  induction ws generalizing s with
  | nil => exact hposition _ s
  | cons w ws ih =>
    obtain ⟨hbitcnt, hout, hack⟩ := hread s
    cases w with
    | micro m =>
      cases m with
      | uop u => exact hposition _ s
      | framing | load | clear | countBit | store => simp only [settle, hmicro, ih]
    | sampleEnd | finish => exact hposition _ s
    | sendBits =>
      simp only [settle, hbitcnt, hout, hshift]
      split
      · exact ih s
      · exact hposition _ s.shiftOut
    | recvBits =>
      simp only [settle, hbitcnt]
      split
      · exact ih s
      · exact hposition _ s
    | nakExit stop =>
      simp only [settle, hack]
      split
      · exact hposition _ s
      · exact ih s

theorem doMicro_setSeq (q : Seq) (m : Micro) (s : State) : doMicro m (s.setSeq q) = (doMicro m s).setSeq q :=
  doMicro_mapBystanders (fun b => { b with seq := q }) m s

/-- Settling sets the position, so the one before it is forgotten. -/
theorem settle_setSeq (ws : List Work) (q : Seq) (s : State) : settle ws (s.setSeq q) = settle ws s :=
  settle_comm (g' := id) (doMicro_setSeq q) (fun _ => rfl) (fun _ => ⟨rfl, rfl, rfl⟩) (fun _ _ => rfl) ws s

/-! ## The port, which the sequencer neither reads nor writes -/

section
variable (p : Port → Port)

theorem settle_mapPort (ws : List Work) (s : State) : settle ws (s.mapPort p) = (settle ws s).mapPort p :=
  settle_comm (doMicro_mapBystanders _) (fun _ => rfl) (fun _ => ⟨rfl, rfl, rfl⟩) (fun _ _ => rfl) ws s

theorem delayCycle_mapPort (rest : List Work) (s : State) :
    delayCycle rest (s.mapPort p) = (delayCycle rest s).mapPort p := by
  have hend : ((s.mapPort p).setDcnt 0).emit .delay = (((s.setDcnt 0).emit .delay).mapPort p) := rfl
  have hcount : (s.mapPort p).dcnt = s.dcnt ∧ (s.mapPort p).cfg = s.cfg := ⟨rfl, rfl⟩
  simp only [delayCycle, hend, settle_mapPort, hcount]
  generalize (if s.dcnt = 0 then s.cfg.delayCycles else s.dcnt) - 1 = d
  split <;> rfl

/-- A cycle of the sequencer neither reads nor writes the port (R26, R238). -/
theorem sequencerCycle_mapPort (s : State) : sequencerCycle (s.mapPort p) = (sequencerCycle s).mapPort p := by
  have hseq : (s.mapPort p).seq = s.seq := rfl
  unfold sequencerCycle
  rw [hseq]
  split
  case h_1 | h_2 => rfl
  case h_3 => exact delayCycle_mapPort p _ s
  case h_4 => exact (congrArg (settle _) (doUop_mapBystanders _ _ s)).trans (settle_mapPort p _ _)
  case h_5 => exact congrArg (State.setSeq _) (sampleSda_mapBystanders _ s)
  case h_6 k _ => cases k <;> rfl
  case h_7 => exact settle_mapPort p _ s

theorem clockCycle_none_mapPort (s : State) : clockCycle .none (s.mapPort p) = (clockCycle .none s).mapPort p := by
  have hbusy : (s.mapPort p).busy = s.busy := rfl
  have hnone : hostAccess .none ((s.mapPort p).setResetHeld false) =
      (hostAccess .none (s.setResetHeld false)).mapPort p := rfl
  simp only [clockCycle, hbusy, hnone, sequencerCycle_mapPort]
  split <;> rfl

/-- Where an access only changes the port, its cycle is the cycle without it and that change. -/
theorem clockCycle_of_port {p : Port → Port} {a : Access} {s : State}
    (h : hostAccess a (s.setResetHeld false) = (s.setResetHeld false).mapPort p) :
    clockCycle a s = (clockCycle .none s).mapPort p := by
  have hnone : hostAccess .none (s.setResetHeld false) = s.setResetHeld false := rfl
  simp only [clockCycle, h, hnone, sequencerCycle_mapPort]
  split <;> rfl

end

/-! ## Steps that perform one clock cycle -/

/-- A step with an empty script is a cycle without an access (R62). -/
theorem step_eq_emptyCycle {s : State} (hwf : s.cfg.wellFormed = true) (hin : s.inputs = []) :
    step s = .next (clockCycle .none s) := by
  simp [step, hwf, fetch, hin]

/-- The step of the same state with an idle cycle at the head of the script, to which the obligations compare an access. -/
theorem step_idleCycle {s : State} (hwf : s.cfg.wellFormed = true) (rest : List Input) :
    step { s with inputs := .cycle .none :: rest } = .next (clockCycle .none (s.setInputs rest)) :=
  step_eq_clockCycle (s := { s with inputs := .cycle .none :: rest }) hwf rfl

/-- A write to CMD without effect: while a command runs, or of a reserved code (R78, R161). -/
theorem writeCmd_ignored {v : Byte} {s : State} (h : s.busy = true ∨ Cmd.ofCode v = none) : writeCmd v s = s := by
  obtain hsame | ⟨c, hc, hidle, -⟩ := writeCmd_cases v s
  · exact hsame
  · simp [hc, hidle] at h

/-- A write to CMD of a command's code, on an idle block (R160). -/
theorem writeCmd_code {s : State} (hidle : s.busy = false) (c : Cmd) : writeCmd c.code s = accept c s := by
  have hcode : Cmd.ofCode c.code = some c := by cases c <;> rfl
  simp [writeCmd, hcode, hidle]

theorem clockCycle_command {s : State} (hidle : s.busy = false) (c : Cmd) :
    clockCycle (.wr 0 c.code) s = accept c (s.setResetHeld false) := by
  rw [clockCycle_of_idle hidle]
  exact writeCmd_code (s := s.setResetHeld false) hidle c

/-! ## Reads and writes of the registers -/

theorem clockCycle_read (off : Offset) (s : State) :
    clockCycle (.rd off) s =
      (clockCycle .none s).mapPort fun q => { q with reads := q.reads ++ [{ off := off, value := s.regRead off }] } :=
  clockCycle_of_port rfl

/-- Settles O15: a read changes the port alone, by the record of the value at the start of the cycle. -/
theorem readsHaveNoSideEffect : Obligations.ReadsHaveNoSideEffect := by
  unfold Obligations.ReadsHaveNoSideEffect
  intro s off rest hwf hin
  refine ⟨_, step_idleCycle hwf rest, ?_⟩
  rw [step_eq_clockCycle hwf hin, clockCycle_read]
  rfl

/-- Settles O16: the write changes the port alone, or nothing (R54). -/
theorem registerWritesStoreAndNothingElse : Obligations.RegisterWritesStoreAndNothingElse := by
  unfold Obligations.RegisterWritesStoreAndNothingElse
  intro s off v rest hwf hin
  refine ⟨_, step_idleCycle hwf rest, ?addr, ?regsel, ?wdata, ?other⟩ <;> rw [step_eq_clockCycle hwf hin]
  case addr =>
    rintro rfl
    have hlow : v.truncate 7 = v.extractLsb' 0 7 := BitVec.setWidth_eq_extractLsb' (by decide : 7 ≤ 8)
    rw [← hlow, clockCycle_of_port (p := fun q => { q with saddr := v.truncate 7 }) rfl]
    rfl
  case regsel =>
    rintro rfl
    rw [clockCycle_of_port (p := fun q => { q with regsel := v }) rfl]
    rfl
  case wdata =>
    rintro rfl
    rw [clockCycle_of_port (p := fun q => { q with wdata := v }) rfl]
    rfl
  case other =>
    intro hoff
    have hnone : hostAccess (.wr off v) ((s.setInputs rest).setResetHeld false) =
        ((s.setInputs rest).setResetHeld false).mapPort id := by
      obtain ⟨rfl, -⟩ | ⟨rfl, -⟩ | ⟨rfl, -⟩ | ⟨rfl, -⟩ | ⟨-, -, -, -, h⟩ :=
        regWrite_cases off v ((s.setInputs rest).setResetHeld false)
      case inr.inr.inr.inr => exact h
      all_goals simp at hoff
    rw [clockCycle_of_port hnone]
    rfl

/-- The reserved codes are those outside 1 to 5 (R72, R78). -/
theorem ofCode_eq_none_iff (v : Byte) : Cmd.ofCode v = none ↔ v.toNat = 0 ∨ 6 ≤ v.toNat := by
  rw [← Option.isNone_iff_eq_none, ← Option.isSome_eq_false_iff, isSome_ofCode_cmd, cmdWordOk, Bool.and_eq_false_iff,
    decide_eq_false_iff_not, decide_eq_false_iff_not]
  omega

/-- Settles O17: an ignored write is `writeCmd_ignored`, and an ignored command run whole answers the state as it is. -/
theorem ignoredCommandWritesHaveNoEffect : Obligations.IgnoredCommandWritesHaveNoEffect := by
  unfold Obligations.IgnoredCommandWritesHaveNoEffect
  refine ⟨ofCode_eq_none_iff, ?write, ?whole⟩
  case write =>
    intro s v rest hwf hignored hin
    have hnone : hostAccess (.wr 0 v) ((s.setInputs rest).setResetHeld false) =
        ((s.setInputs rest).setResetHeld false).mapPort id :=
      writeCmd_ignored (s := (s.setInputs rest).setResetHeld false) hignored
    rw [step_eq_clockCycle hwf hin, step_idleCycle hwf rest, clockCycle_of_port hnone]
    rfl
  case whole => exact fun s c hbusy => exec_instr_of_busy hbusy c

/-- Settles O18: the cycle is the acceptance, `accept_eq`. -/
theorem acceptedCommandWriteLatchesOperands : Obligations.AcceptedCommandWriteLatchesOperands := by
  unfold Obligations.AcceptedCommandWriteLatchesOperands
  intro s c rest hwf hidle hin
  rw [step_eq_clockCycle hwf hin, clockCycle_command (s := s.setInputs rest) hidle, accept_eq]
  rfl

/-- Settles O9: a cycle without an access on an idle block. -/
theorem idleBlockKeepsItsState : Obligations.IdleBlockKeepsItsState := by
  unfold Obligations.IdleBlockKeepsItsState
  intro s hwf hidle hin
  rw [step_eq_emptyCycle hwf hin, clockCycle_of_idle hidle]
  rfl

/-- STATUS bit by bit: BUSY, BUS_ACTIVE, and zeros (R32). -/
theorem getLsbD_status (s : State) (k : Nat) :
    s.status.getLsbD k = if k = 0 then s.busy else if k = 1 then s.busActive else false := by
  simp only [State.status, BitVec.getLsbD_append, BitVec.getLsbD_ofBool, BitVec.getLsbD_zero]
  obtain rfl | rfl | hk : k = 0 ∨ k = 1 ∨ 2 ≤ k := by omega
  · rfl
  · rfl
  · have hpos : ¬ k < 1 ∧ ¬ k < 1 + 1 ∧ k ≠ 0 ∧ k ≠ 1 := by omega
    simp only [hpos, if_false]

/-- Settles O14: each offset is one branch of `regRead`, and STATUS is `busy` and BUS_ACTIVE below six zeros. -/
theorem registerReadsReturnTheRegisters : Obligations.RegisterReadsReturnTheRegisters := by
  unfold Obligations.RegisterReadsReturnTheRegisters
  intro s
  have hstatus : s.regRead 4 = s.status := rfl
  refine ⟨rfl, ?saddr, rfl, rfl, ?busy, ?active, ?zeros, rfl, rfl, rfl⟩
  case saddr => exact BitVec.toNat_setWidth_of_le (by decide : 7 ≤ 8)
  case busy => rw [hstatus, getLsbD_status, if_pos rfl]
  case active => rw [hstatus, getLsbD_status]; simp [State.busActive]
  case zeros =>
    intro k hk
    rw [hstatus, getLsbD_status, if_neg (by omega), if_neg (by omega)]

/-! ## Two runs with different ports -/

/-- A run of `n + 1` steps is one step and a run of `n`. -/
theorem runSteps_succ {n : Nat} {s t : State} :
    runSteps (n + 1) s = .next t ↔ ∃ u, step s = .next u ∧ runSteps n u = .next t := by
  cases h : step s <;> simp [runSteps, h]

/-- With an empty script two runs from states that differ in the port end in states that differ in the port as they did. -/
theorem runSteps_mapPort (p : Port → Port) {n : Nat} {s t : State} (hin : s.inputs = []) (h : runSteps n s = .next t) :
    runSteps n (s.mapPort p) = .next (t.mapPort p) := by
  induction n generalizing s with
  | zero => cases h; rfl
  | succ n ih =>
    obtain ⟨u, hstep, hrun⟩ := runSteps_succ.mp h
    have hwf : s.cfg.wellFormed = true := (step_cases hstep).1
    obtain rfl : clockCycle .none s = u := Host.Outcome.next.inj ((step_eq_emptyCycle hwf hin).symm.trans hstep)
    refine runSteps_succ.mpr ⟨_, step_eq_emptyCycle (s := s.mapPort p) hwf hin, ?_⟩
    rw [clockCycle_none_mapPort]
    exact ih ((inputs_clockCycle .none s).trans hin) hrun

/-- Settles O20: the three operand registers are part of the port. -/
theorem operandRegistersDoNotReachARunningCommand : Obligations.OperandRegistersDoNotReachARunningCommand := by
  unfold Obligations.OperandRegistersDoNotReachARunningCommand
  intro n s t a r d _ hin hrun
  exact runSteps_mapPort (fun q => { q with saddr := a, regsel := r, wdata := d }) hin hrun

end Sys2Proof.Machine
end

section
/-! PROOFS. What a step can change (10_state.md R24, R26, R30; 60_exceptions.md R200): the latches, RESULT and the trace,
from one statement of what one cycle of the sequencer can do, and the words and resets of the script. -/

namespace Sys2Proof.Machine

open Sys2Proof

/-! ## One cycle of the sequencer -/

/-- Every uop adds to the trace (R24). -/
theorem trace_prefix_doUop (u : Uop) (s : State) : s.trace <+: (doUop u s).trace := by
  obtain ⟨e, he⟩ := doUop_trace u s
  exact ⟨[e], he.symm⟩

/-- Settling records no event (R140). -/
theorem trace_settle (ws : List Work) (s : State) : (settle ws s).trace = s.trace := by
  rw [settle_frame]

/-- The latches (R26). -/
def State.latches (s : State) : Byte × SlaveAddr × Byte × Byte := (s.opL, s.saddrL, s.regL, s.dataL)

/-- What uops and settling never change, and so no cycle before the completion: the latches and RESULT (R26, R30). -/
def State.kept (s : State) : (Byte × SlaveAddr × Byte × Byte) × Byte × Bool := (s.latches, s.result, s.busy)

@[simp] theorem kept_settle (ws : List Work) (s : State) : (settle ws s).kept = s.kept := by
  rw [settle_frame]; rfl

@[simp] theorem kept_doUop (u : Uop) (s : State) : (doUop u s).kept = s.kept := by
  rw [doUop_frame]; rfl

@[simp] theorem kept_sampleSda (s : State) : s.sampleSda.kept = s.kept := kept_doUop .sampleSda s

/-- One cycle of the sequencer completes the command, or adds to the trace and keeps the latches, RESULT and `busy`. -/
theorem sequencerCycle_cases (s : State) :
    (∃ k, sequencerCycle s = s.finish (finishValue k s)) ∨
      (s.trace <+: (sequencerCycle s).trace ∧ (sequencerCycle s).kept = s.kept) := by
  unfold sequencerCycle
  split
  case h_1 | h_2 => exact .inr ⟨List.prefix_refl _, rfl⟩
  case h_3 rest _ =>
    obtain hend | ⟨d, hcount, -⟩ := delayCycle_cases rest s
    · rw [hend, trace_settle, kept_settle]
      exact .inr ⟨List.prefix_append _ _, rfl⟩
    · rw [hcount]
      exact .inr ⟨List.prefix_refl _, rfl⟩
  case h_4 => exact .inr ⟨by rw [trace_settle]; exact trace_prefix_doUop _ s, by simp⟩
  case h_5 => exact .inr ⟨trace_prefix_doUop .sampleSda s, kept_sampleSda s⟩
  case h_6 k _ _ => exact .inl ⟨k, rfl⟩
  case h_7 => exact .inr ⟨by rw [trace_settle], kept_settle _ s⟩

/-! ## One clock cycle -/

/-- One clock cycle accepts a command on an idle block, or completes the running one, or adds to the trace and keeps the
latches, RESULT and `busy`. -/
theorem clockCycle_cases (a : Access) (s : State) :
    (s.busy = false ∧ ∃ c : Cmd, a = .wr 0 c.code ∧ clockCycle a s = accept c (s.setResetHeld false)) ∨
    (s.busy = true ∧ ∃ (u : State) (r : Option Byte), u.trace = s.trace ∧ u.kept = s.kept ∧ clockCycle a s = u.finish r) ∨
    (s.trace <+: (clockCycle a s).trace ∧ (clockCycle a s).kept = s.kept) := by
  cases hbusy : s.busy
  case false =>
    rw [clockCycle_of_idle hbusy]
    obtain ⟨c, hwrite, -, haccept⟩ | hframe := hostAccess_frame_of_idle a (s.setResetHeld false)
    · exact .inl ⟨rfl, c, hwrite, haccept⟩
    · rw [hframe]
      exact .inr (.inr ⟨List.prefix_refl _, rfl⟩)
  case true =>
    rw [clockCycle_of_busy hbusy]
    have hframe := hostAccess_frame_of_busy (s := s.setResetHeld false) hbusy a
    have htrace : (hostAccess a (s.setResetHeld false)).trace = s.trace := by rw [hframe]; rfl
    have hkept : (hostAccess a (s.setResetHeld false)).kept = s.kept := by rw [hframe]; rfl
    obtain ⟨k, hfinish⟩ | ⟨hprefix, hsame⟩ := sequencerCycle_cases (hostAccess a (s.setResetHeld false))
    · exact .inr (.inl ⟨rfl, _, _, htrace, hkept, hfinish⟩)
    · exact .inr (.inr ⟨htrace ▸ hprefix, hsame.trans hkept⟩)

/-- Settles O19: of the three things a clock cycle can do, only acceptance writes a latch. -/
theorem latchesChangeOnlyAtAcceptance : Obligations.LatchesChangeOnlyAtAcceptance := by
  unfold Obligations.LatchesChangeOnlyAtAcceptance
  intro s t a rest hin hstep hchange
  have hwf : s.cfg.wellFormed = true := (step_cases hstep).1
  obtain rfl : clockCycle a (s.setInputs rest) = t :=
    Host.Outcome.next.inj ((step_eq_clockCycle hwf hin).symm.trans hstep)
  have hlatches : (clockCycle a (s.setInputs rest)).latches ≠ s.latches := by
    simpa only [ne_eq, State.latches, Prod.mk.injEq] using hchange
  obtain ⟨hidle, c, hwrite, haccept⟩ | ⟨-, u, r, -, hkept, hfinish⟩ | ⟨-, hkept⟩ := clockCycle_cases a (s.setInputs rest)
  · exact ⟨hidle, by rw [haccept]; rfl, c, hwrite⟩
  · have hsame : u.latches = s.latches := congrArg Prod.fst hkept
    rw [hfinish] at hlatches
    exact absurd hsame hlatches
  · have hsame : (clockCycle a (s.setInputs rest)).latches = s.latches := congrArg Prod.fst hkept
    exact absurd hsame hlatches

/-- Settles O21: of the three things a clock cycle can do, only the completion writes RESULT, and only with a value. -/
theorem resultChangesOnlyAtCompletion : Obligations.ResultChangesOnlyAtCompletion := by
  unfold Obligations.ResultChangesOnlyAtCompletion
  intro s t a rest hin hstep hchange
  have hwf : s.cfg.wellFormed = true := (step_cases hstep).1
  obtain rfl : clockCycle a (s.setInputs rest) = t :=
    Host.Outcome.next.inj ((step_eq_clockCycle hwf hin).symm.trans hstep)
  obtain ⟨-, c, -, haccept⟩ | ⟨hbusy, u, r, htrace, hkept, hfinish⟩ | ⟨-, hkept⟩ := clockCycle_cases a (s.setInputs rest)
  · rw [haccept] at hchange
    exact absurd rfl hchange
  · have hresult : u.result = s.result := congrArg (fun q => q.2.1) hkept
    rw [hfinish] at hchange ⊢
    cases r with
    | none => exact absurd hresult hchange
    | some v => exact ⟨hbusy, rfl, rfl, v, by rw [State.finish_trace, htrace]; rfl, rfl⟩
  · have hresult : (clockCycle a (s.setInputs rest)).result = s.result := congrArg (fun q => q.2.1) hkept
    exact absurd hresult hchange

/-! ## The trace over any step -/

theorem trace_prefix_clockCycle (a : Access) (s : State) : s.trace <+: (clockCycle a s).trace := by
  obtain ⟨-, c, -, haccept⟩ | ⟨-, u, r, htrace, -, hfinish⟩ | ⟨hprefix, -⟩ := clockCycle_cases a s
  · rw [haccept]; exact List.prefix_append _ _
  · rw [hfinish, ← htrace]; exact List.prefix_append _ _
  · exact hprefix

theorem trace_prefix_waitCycle (rest : List Input) (s : State) : s.trace <+: (waitCycle rest s).trace := by
  rw [waitCycle]
  split
  · exact trace_prefix_clockCycle _ s
  · exact trace_prefix_clockCycle _ (s.setInputs rest)

theorem trace_prefix_resetCycle (a : Access) (s : State) : s.trace <+: (resetCycle a s).trace := by
  have htrace : (resetCycle a s).trace = if s.resetHeld then s.trace else s.trace ++ [.reset] :=
    congrArg Block.trace (resetCycle_toBlock a s)
  rw [htrace]
  split
  · exact List.prefix_refl _
  · exact List.prefix_append _ _

/-- A command adds its markers and its uops, or nothing while another runs (R160, R161). -/
theorem trace_prefix_exec_cmd {c : Cmd} {s t : State} (h : exec c.instr s = .next t) : s.trace <+: t.trace := by
  cases hbusy : s.busy
  case true =>
    obtain rfl := exec_next_unique h (exec_instr_of_busy hbusy c)
    exact List.prefix_refl _
  case false =>
    obtain ⟨es, r, htrace, -, -⟩ := finishedSince_procedure c (accept c s)
    obtain rfl := exec_next_unique h (exec_instr_of_idle hbusy c)
    rw [htrace, trace_accept, List.append_assoc]
    exact List.prefix_append _ _

/-- Every instruction adds to the trace (R24). -/
theorem trace_prefix_exec {i : Instr} {s t : State} (h : exec i s = .next t) : s.trace <+: t.trace := by
  cases i with
  | init => exact trace_prefix_exec_cmd (c := .init) h
  | sendByte => exact trace_prefix_exec_cmd (c := .sendByte) h
  | receiveByte => exact trace_prefix_exec_cmd (c := .receiveByte) h
  | sendByteData => exact trace_prefix_exec_cmd (c := .sendByteData) h
  | receiveByteData => exact trace_prefix_exec_cmd (c := .receiveByteData) h
  | relScl | drvScl | relSda | drvSda | delay | sampleSda => cases h; exact trace_prefix_doUop _ s
  | start => cases h; rw [callStart_eq]; exact List.prefix_append _ _
  | stop => cases h; rw [callStop_eq]; exact List.prefix_append _ _
  | writeBit v => cases h; rw [callWriteBit_eq]; exact List.prefix_append _ _
  | readBit => cases h; rw [callReadBit_eq]; exact List.prefix_append _ _
  | writeByte x f g => cases h; rw [callWriteByte_eq]; exact List.prefix_append _ _
  | readByte f g => cases h; rw [callReadByte_eq]; exact List.prefix_append _ _

/-- Settles O53: for each kind of step the trace after begins with the trace before. -/
theorem traceOnlyGrows : Obligations.TraceOnlyGrows := by
  unfold Obligations.TraceOnlyGrows
  intro s t hstep
  suffices h : s.trace <+: t.trace from h.imp fun _ => Eq.symm
  obtain ⟨-, hcase⟩ := step_cases hstep
  obtain ⟨-, rfl⟩ | ⟨a, rest, -, rfl⟩ | ⟨rest, -, rfl⟩ | ⟨a, rest, -, rfl⟩ | ⟨w, rest, i, -, -, hexec⟩ |
    ⟨v, rest, -, -, rfl⟩ := hcase
  · exact trace_prefix_clockCycle .none s
  · exact trace_prefix_clockCycle a (s.setInputs rest)
  · exact trace_prefix_waitCycle rest s
  · exact trace_prefix_resetCycle a (s.setInputs rest)
  · exact trace_prefix_exec (s := s.pastWord rest) hexec
  · exact List.prefix_refl _

/-! ## Words of the script -/

/-- Settles O52: what each instruction leaves is `exec_keepsHostSide`. -/
theorem instructionsKeepTheHostsRegisters : Obligations.InstructionsKeepTheHostsRegisters := by
  unfold Obligations.InstructionsKeepTheHostsRegisters
  intro i s
  obtain ⟨t, hexec, hside⟩ := exec_keepsHostSide i s
  exact ⟨t, hexec, State.hostSide_eq_iff.mp hside⟩

/-- A step with a word at the head of the script does what the word asks, at the state past it. -/
theorem step_word {s : State} {w : EncWord} {rest : List Input} (hwf : s.cfg.wellFormed = true)
    (hin : s.inputs = .word w :: rest) :
    step s = match decode w with
      | .ok i => exec i (s.pastWord rest)
      | .reservedCmd _ => .next (s.pastWord rest)
      | .invalidUop v => .refused (.invalidUop v)
      | .invalidPrim v => .refused (.invalidPrim v) := by
  simp only [step, hwf, fetch, hin, fetchWord, if_true]
  cases decode w <;> rfl

/-- Settles O6: an instruction's word is executed past it, and a table word is placed at the head of the script. -/
theorem stepExecutesTheDecodedInstruction : Obligations.StepExecutesTheDecodedInstruction := by
  unfold Obligations.StepExecutesTheDecodedInstruction
  refine ⟨fun s w rest i hwf hin hdecode => ?script, fun s nbits w i hwf htable => ?table⟩
  case script => rw [step_word hwf hin, hdecode]; rfl
  case table =>
    cases he : tableWord nbits w with
    | none => simp [decodeTableWord, he] at htable
    | some e =>
      have hdecode : decode e = .ok i := by
        cases hd : decode e <;> simp_all [decodeTableWord]
      have hplaced : s.withFetchWord nbits w = s.placeWord e := by simp [State.withFetchWord, he]
      rw [hplaced, step_word (s := s.placeWord e) hwf rfl, hdecode]
      rfl

/-- Settles O7: an invalid word decodes to its refusal. -/
theorem invalidInternalWordsAreRefused : Obligations.InvalidInternalWordsAreRefused := by
  unfold Obligations.InvalidInternalWordsAreRefused
  intro s rest hwf
  refine ⟨fun w hbad hin => ?_, fun w hbad hin => ?_⟩
  · rw [step_word hwf hin, decode_uop_of_not_ok hbad]
  · rw [step_word hwf hin, decode_prim_of_not_ok hbad]

/-- A step with `wait` at the head of the script performs one cycle of it (R82). -/
theorem step_eq_waitCycle {s : State} {rest : List Input} (hwf : s.cfg.wellFormed = true)
    (hin : s.inputs = .wait :: rest) : step s = .next (waitCycle rest s) := by
  simp [step, hwf, fetch, hin]

/-- Settles O54: a cycle always goes on, and the only words of a host's script are command bytes, which are executed or
passed over. -/
theorem hostDrivenBlockNeverStops : Obligations.HostDrivenBlockNeverStops := by
  unfold Obligations.HostDrivenBlockNeverStops
  intro s hwf hscript
  match hin : s.inputs with
  | [] => exact ⟨_, step_eq_emptyCycle hwf hin⟩
  | .cycle a :: rest => exact ⟨_, step_eq_clockCycle hwf hin⟩
  | .wait :: rest => exact ⟨_, step_eq_waitCycle hwf hin⟩
  | .rst a :: rest => exact ⟨_, step_eq_resetCycle hwf hin⟩
  | .word (.cmd v) :: rest =>
    rw [step_word hwf hin, decode]
    cases Cmd.ofCode v with
    | none => exact ⟨_, rfl⟩
    | some c => exact (exec_keepsHostSide c.instr _).imp fun _ => And.left
  | .word (.uop w) :: rest | .word (.prim w) :: rest => simp [hin, hostEntry] at hscript

/-- Settles O22: `wait` is a cycle that reads STATUS, whose bit 0 is `busy`. -/
theorem waitReadsStatusUntilNotBusy : Obligations.WaitReadsStatusUntilNotBusy := by
  unfold Obligations.WaitReadsStatusUntilNotBusy
  intro s rest hin
  cases hwf : s.cfg.wellFormed
  case false =>
    have hrefused (l : List Input) : step { s with inputs := l } = .refused .badConfig :=
      step_eq_badConfig (s := { s with inputs := l }) hwf
    rw [step_eq_badConfig hwf, hrefused]
  case true =>
    have hread (l : List Input) : step { s with inputs := .cycle (.rd 4) :: l } = .next (clockCycle (.rd 4) (s.setInputs l)) :=
      step_eq_clockCycle (s := { s with inputs := .cycle (.rd 4) :: l }) hwf rfl
    have hbit : s.status.getLsbD 0 = s.busy := getLsbD_status s 0
    rw [step_eq_waitCycle hwf hin, hread, waitCycle, hbit]
    split
    · rw [State.setInputs_eq_self hin]; rfl
    · rfl

/-! ## Resets -/

/-- A reset cycle behind another changes nothing: the run counts as one reset (R230). -/
theorem resetCycle_again {s : State} {tr : List Event} (hblock : s.toBlock = Block.resetWithTrace tr)
    (hheld : s.resetHeld = true) : resetCycle .none s = s := by
  have hb : (resetCycle .none s).toBlock = s.toBlock := by
    rw [resetCycle_toBlock, if_pos hheld, hblock]; rfl
  have hw : (resetCycle .none s).toWorld = s.toWorld := by
    rw [resetCycle_toWorld, readsInReset, List.append_nil]
    exact congrArg State.toWorld (State.setResetHeld_eq_self hheld)
  calc resetCycle .none s
      = { toBlock := (resetCycle .none s).toBlock, toWorld := (resetCycle .none s).toWorld } := rfl
    _ = s := by rw [hb, hw]

/-- So a run of further reset cycles only uses up the script. -/
theorem runSteps_resetCycles {n : Nat} {s : State} {rest : List Input} {tr : List Event} (hwf : s.cfg.wellFormed = true)
    (hblock : s.toBlock = Block.resetWithTrace tr) (hheld : s.resetHeld = true)
    (hin : s.inputs = List.replicate n (.rst .none) ++ rest) : runSteps n s = .next (s.setInputs rest) := by
  induction n generalizing s with
  | zero => exact congrArg Host.Outcome.next (State.setInputs_eq_self hin).symm
  | succ n ih =>
    rw [List.replicate_succ, List.cons_append] at hin
    generalize htail : List.replicate n (Input.rst .none) ++ rest = tail at hin
    refine runSteps_succ.mpr ⟨_, step_eq_resetCycle hwf hin, ?_⟩
    rw [resetCycle_again (s := s.setInputs tail) hblock hheld]
    exact ih (s := s.setInputs tail) hwf hblock hheld htail.symm

/-- Settles O12: the first reset cycle appends `Reset`, the others nothing, and in the next cycle the block is idle. -/
theorem runOfResetCyclesIsOneReset : Obligations.RunOfResetCyclesIsOneReset := by
  unfold Obligations.RunOfResetCyclesIsOneReset
  intro s n c rest hwf hheld hin
  rw [List.replicate_succ, List.cons_append] at hin
  generalize htail : List.replicate n (Input.rst .none) ++ .cycle (.wr 0 c.code) :: rest = tail at hin
  have hblock : (resetCycle .none (s.setInputs tail)).toBlock = Block.resetWithTrace (s.trace ++ [.reset]) := by
    rw [resetCycle_toBlock]
    exact congrArg Block.resetWithTrace (if_neg (by simp [hheld]))
  have hrun := runSteps_resetCycles (s := resetCycle .none (s.setInputs tail)) hwf hblock rfl htail.symm
  have hstep := step_eq_resetCycle hwf hin
  have hcfg : (resetCycle .none (s.setInputs tail)).cfg.wellFormed = true := hwf
  generalize resetCycle .none (s.setInputs tail) = u at hblock hrun hstep hcfg
  have htrace : u.trace = s.trace ++ [.reset] := congrArg Block.trace hblock
  have hidle : u.busy = false := congrArg Block.busy hblock
  have hseq : u.seq = .idle := congrArg Block.seq hblock
  have haccept : step (u.setInputs (.cycle (.wr 0 c.code) :: rest)) =
      .next (accept c ((u.setInputs rest).setResetHeld false)) := by
    rw [step_eq_clockCycle (s := u.setInputs (.cycle (.wr 0 c.code) :: rest)) hcfg rfl]
    exact congrArg Host.Outcome.next (clockCycle_command (s := u.setInputs rest) hidle c)
  refine ⟨_, _, runSteps_succ.mpr ⟨u, hstep, hrun⟩, htrace, hidle, hseq, haccept, rfl, ?_⟩
  rw [trace_accept, State.setResetHeld_toBlock, State.setInputs_toBlock, htrace, List.append_assoc]
  rfl

/-- Settles O13: a reset releases SDA, which is a stop condition where SDA was driven with SCL released. -/
theorem resetConditionsWhereSpecified : Obligations.ResetConditionsWhereSpecified := by
  unfold Obligations.ResetConditionsWhereSpecified
  exact fun n => ⟨rfl, rfl, rfl⟩

end Sys2Proof.Machine
end

section
/-! PROOFS. The pins, SAMPLE_SDA and DELAY (40_line_primitives.md R100, R105 to R108), and the laws of the byte primitives
that hold for every flag (43_byte_transfer.md R146, R147). -/

namespace Sys2Proof.Machine

open Sys2Proof

/-! ## Pins and uops -/

/-- The pins of a BBM's parameters differ (R9). -/
theorem sclPin_ne_sdaPin {c : Config} (h : c.wellFormed = true) : c.sclPin ≠ c.sdaPin := fun heq => by
  simp [wellFormed_eq_false_of_onePin heq] at h

/-- Settles O23: the multiplexer is asked at the two pins, which differ, and elsewhere. -/
theorem pinsFollowTheDriversAndNeverDriveHigh : Obligations.PinsFollowTheDriversAndNeverDriveHigh := by
  unfold Obligations.PinsFollowTheDriversAndNeverDriveHigh
  intro s hwf
  have hne := sclPin_ne_sdaPin hwf
  refine ⟨if_pos rfl, ?sda, fun p hscl hsda => ?other, fun _ => rfl, fun _ => rfl⟩
  case sda => rw [State.gpio, if_neg hne.symm, if_pos rfl]; rfl
  case other => rw [State.gpio, if_neg hscl, if_neg hsda]

/-- Settles O25: the two cases are `State.sampleSda_driven` and `State.sampleSda_released`. -/
theorem sampleReturnsTheLevelOfSda : Obligations.SampleReturnsTheLevelOfSda := by
  unfold Obligations.SampleReturnsTheLevelOfSda
  refine fun s => ⟨fun hdriven => ?driven, fun hreleased => ?released⟩
  case driven =>
    obtain ⟨hbit, hsample⟩ := State.sampleSda_driven hdriven
    exact ⟨congrArg Host.Outcome.next hsample, hbit⟩
  case released =>
    obtain ⟨hbit, hsample⟩ := State.sampleSda_released hreleased
    refine ⟨(congrArg Host.Outcome.next hsample).trans ?_, hbit⟩
    rw [State.takeDraw, List.drop_one]
    rfl

/-- Settles O26: DELAY whole is `State.delayUop_eq`. -/
theorem delayChangesNothingButItsEvent : Obligations.DelayChangesNothingButItsEvent := by
  unfold Obligations.DelayChangesNothingButItsEvent
  exact fun s => congrArg Host.Outcome.next (State.delayUop_eq s)

/-- Settles O31: both lines are released, or SCL is driven, where the procedures enter. -/
theorem entryStatesOfStartAndStop : Obligations.EntryStatesOfStartAndStop := by
  unfold Obligations.EntryStatesOfStartAndStop
  exact fun n => ⟨conditionsFrom_startEvents_of_sdaReleased rfl n, conditionsFrom_startEvents_of_sdaReleased rfl n,
    fun _ => conditionsFrom_stopEvents_of_sclDriven rfl n⟩

/-! ## DELAY in the sequencer -/

/-- A command runs with the host idle and `rst` low, so that a step is one cycle of the sequencer. -/
structure State.RunsAlone (s : State) : Prop where
  wf : s.cfg.wellFormed = true
  busy : s.busy = true
  inputs : s.inputs = []
  rst : s.resetHeld = false

theorem State.RunsAlone.step {s : State} (h : s.RunsAlone) : step s = .next (sequencerCycle s) :=
  step_eq_sequencerCycle h.wf h.busy h.inputs h.rst

/-- Before its first cycle a DELAY is as where DCNT holds all of DELAY_CYCLES (R107). -/
theorem delayCycle_first {rest : List Work} {s : State} (hdcnt : s.dcnt = 0) :
    delayCycle rest s = delayCycle rest (s.setDcnt s.cfg.delayCycles) := by
  simp only [delayCycle, hdcnt, if_true, State.setDcnt_dcnt, State.setDcnt_toWorld, ite_self]
  rfl

/-- A DELAY with two cycles to go or more counts DCNT down (R107). -/
theorem delayCycle_count (rest : List Work) (s : State) (m : Nat) :
    delayCycle rest (s.setDcnt (m + 2)) = s.setDcnt (m + 1) := rfl

/-- The last cycle of a DELAY records it and settles behind it (R107). -/
theorem delayCycle_last (rest : List Work) (s : State) :
    delayCycle rest (s.setDcnt 1) = settle rest ((s.setDcnt 0).emit .delay) := rfl

/-- Two runs in a row are one run. -/
theorem runSteps_add {m n : Nat} {s t u : State} (hm : runSteps m s = .next t) (hn : runSteps n t = .next u) :
    runSteps (m + n) s = .next u := by
  induction m generalizing s with
  | zero => cases hm; rwa [Nat.zero_add]
  | succ m ih =>
    obtain ⟨v, hstep, hrun⟩ := runSteps_succ.mp hm
    rw [Nat.add_right_comm]
    exact runSteps_succ.mpr ⟨v, hstep, ih hrun⟩

section
variable {s : State} {rest : List Work} (h : s.RunsAlone) (hseq : s.seq = .at (.micro (.uop .delay) :: rest))
include h hseq

theorem step_delay (m : Nat) : step (s.setDcnt m) = .next (delayCycle rest (s.setDcnt m)) := by
  have halone : (s.setDcnt m).RunsAlone := ⟨h.wf, h.busy, h.inputs, h.rst⟩
  have hcycle : sequencerCycle (s.setDcnt m) = delayCycle rest (s.setDcnt m) := by
    simp only [sequencerCycle, State.setDcnt_seq, hseq]
  rw [halone.step, hcycle]

/-- While a DELAY has cycles to go, a run only counts DCNT down. -/
theorem runSteps_delay_counts {j m : Nat} (hj : j < m) : runSteps j (s.setDcnt m) = .next (s.setDcnt (m - j)) := by
  induction j generalizing m with
  | zero => rfl
  | succ j ih =>
    obtain ⟨m, rfl⟩ : ∃ m', m = m' + 2 := ⟨m - 2, by omega⟩
    refine runSteps_succ.mpr ⟨_, step_delay h hseq (m + 2), ?_⟩
    rw [delayCycle_count, ih (by omega)]
    congr 2
    omega

/-- A DELAY with `m + 1` cycles to go is over after as many, and the sequencer is settled behind it. -/
theorem runSteps_delay_ends (m : Nat) :
    runSteps (m + 1) (s.setDcnt (m + 1)) = .next (settle rest ((s.setDcnt 0).emit .delay)) := by
  have hcount := runSteps_delay_counts h hseq (Nat.lt_succ_self m)
  rw [Nat.sub_eq_of_eq_add (Nat.add_comm m 1)] at hcount
  exact runSteps_add hcount (runSteps_succ.mpr ⟨_, (step_delay h hseq 1).trans (by rw [delayCycle_last]), rfl⟩)

/-- The run of a DELAY from its start, cycle by cycle (R107, R241). -/
theorem runSteps_delay (hdcnt : s.dcnt = 0) :
    (∀ j, 0 < j → j < s.cfg.delayCycles → runSteps j s = .next (s.setDcnt (s.cfg.delayCycles - j))) ∧
      runSteps s.cfg.delayCycles s = .next (settle rest (s.emit .delay)) := by
  have hfirst : step s = step (s.setDcnt s.cfg.delayCycles) := by
    rw [step_delay h hseq, ← delayCycle_first hdcnt]
    have hstart := step_delay h hseq 0
    rwa [State.setDcnt_eq_self hdcnt] at hstart
  have hrun (j : Nat) : runSteps (j + 1) s = runSteps (j + 1) (s.setDcnt s.cfg.delayCycles) := by
    rw [runSteps, runSteps, hfirst]
  refine ⟨fun j hj hlt => ?_, ?_⟩
  · obtain ⟨j, rfl⟩ := Nat.exists_eq_add_of_le' hj
    rw [hrun, runSteps_delay_counts h hseq hlt]
  · obtain ⟨m, hm⟩ := Nat.exists_eq_add_of_le' (one_le_delayCycles h.wf)
    have hend := runSteps_delay_ends h hseq m
    rw [State.setDcnt_eq_self hdcnt] at hend
    rw [hm] at hrun ⊢
    rw [hrun, hend]

end

/-- Settles O27: the cycles of a DELAY are `runSteps_delay`. -/
theorem delayTakesDelayCyclesCycles : Obligations.DelayTakesDelayCyclesCycles := by
  unfold Obligations.DelayTakesDelayCyclesCycles
  exact fun s ws hwf hbusy hin hrst hdcnt hseq => runSteps_delay ⟨hwf, hbusy, hin, hrst⟩ hseq hdcnt

/-! ## The flags of the byte primitives -/

/-- Settles O39: the fields of `callWriteByte_eq` and `callReadByte_eq` that a flag reaches are the four named. -/
theorem flagsDoNotReachTheResult : Obligations.FlagsDoNotReachTheResult := by
  unfold Obligations.FlagsDoNotReachTheResult
  refine ⟨fun s x f g f' g' => ⟨_, _, exec_writeByte x f g s, exec_writeByte x f' g' s, ?_⟩,
    fun s f g f' g' => ⟨_, _, exec_readByte f g s, exec_readByte f' g' s, ?_⟩⟩
  · simp only [callWriteByte_eq]
  · simp only [callReadByte_eq]

end Sys2Proof.Machine
end

section
/-! PROOFS. What the commands show on the wire and how many uops they take on each path (43_byte_transfer.md R146,
44_transactions.md R170, R171, R174, 70_reset_and_hazards.md R235, R243). -/

namespace Sys2Proof.Machine

open Sys2Proof

/-! ## Events read off the wire -/

/-- Begun with the drivers at `l` and no bit under way, these events show these symbols, and leave no bit under way. -/
def Shows (l : Lines) (es : List Event) (syms : List Sym) : Prop :=
  ∀ n rest, wireFrom n l none (es ++ rest) = syms ++ wireFrom (n + es.length) (l.afterAll es) none rest

theorem Shows.wire {l : Lines} {es : List Event} {syms : List Sym} (h : Shows l es syms) (n : Nat) :
    wireFrom n l none es = syms := by
  have hend := h n []
  rwa [List.append_nil, wireFrom, List.append_nil] at hend

theorem Shows.append {l m : Lines} {es fs : List Event} {a b : List Sym} (hes : Shows l es a) (hm : l.afterAll es = m)
    (hfs : Shows m fs b) : Shows l (es ++ fs) (a ++ b) := by
  intro n rest
  rw [List.append_assoc, hes, hm, hfs, Lines.afterAll_append, hm, List.length_append, List.append_assoc, Nat.add_assoc]

theorem shows_writeBitEvents {l : Lines} (hscl : l.sclOe = true) (v : Bool) : Shows l (writeBitEvents v) [.bit v] := by
  intro n rest
  cases v <;> simp [writeBitEvents, wireFrom, conditionOf, bitOf, phaseBit, Lines.after, Lines.afterAll, hscl]

theorem shows_readBitEvents {l : Lines} (hscl : l.sclOe = true) (b : Bool) : Shows l (readBitEvents b) [.bit b] := by
  intro n rest
  simp [readBitEvents, wireFrom, conditionOf, bitOf, phaseBit, Lines.after, Lines.afterAll, hscl]

/-- A loop shows its bits where each of its turns shows its one. -/
theorem shows_flatMap {f : Bool → List Event} (hf : ∀ b, TransfersBits (f b))
    (hshow : ∀ {l : Lines}, l.sclOe = true → ∀ b, Shows l (f b) [.bit b]) {l : Lines} (hscl : l.sclOe = true)
    (bs : List Bool) : Shows l (bs.flatMap f) (bs.map Sym.bit) := by
  induction bs generalizing l with
  | nil => exact fun n rest => rfl
  | cons b bs ih =>
    rw [List.flatMap_cons, List.map_cons]
    exact (hshow hscl b).append rfl (ih (hf b l hscl).1)

/-! ## Bytes, START and STOP -/

/-- START shows its start condition, wherever SDA was released before (R120, R121). -/
theorem shows_startEvents {l : Lines} (hsda : l.sdaOe = false) : Shows l startEvents [.cond .start] := by
  intro n rest
  simp [startEvents, wireFrom, conditionOf, bitOf, phaseBit, Lines.after, Lines.afterAll, hsda]

/-- With SCL driven STOP shows its stop condition (R122). -/
theorem shows_stopEvents {l : Lines} (hscl : l.sclOe = true) : Shows l stopEvents [.cond .stop] := by
  intro n rest
  simp [stopEvents, wireFrom, conditionOf, bitOf, phaseBit, Lines.after, Lines.afterAll, hscl]

/-- A byte sent within a transaction shows its eight bits and the ninth (R146, R174). -/
theorem shows_writeByteEvents {l : Lines} (hscl : l.sclOe = true) (x : Byte) (ninth : Bool) :
    Shows l (writeByteEvents x false false ninth) (byteSyms x ninth) := by
  have hbyte : writeByteEvents x false false ninth = (byteBits x).flatMap writeBitEvents ++ readBitEvents ninth := by
    simp [writeByteEvents]
  have hsclEnd := (transfersBits_flatMap transfersBits_writeBitEvents (byteBits x) l hscl).1
  rw [hbyte, byteSyms]
  exact (shows_flatMap transfersBits_writeBitEvents shows_writeBitEvents hscl _).append rfl
    (shows_readBitEvents hsclEnd ninth)

/-- A byte sent behind a START shows the start condition before its bits. -/
theorem shows_startByte {l : Lines} (hsda : l.sdaOe = false) (x : Byte) (ninth : Bool) :
    Shows l (writeByteEvents x true false ninth) ([.cond .start] ++ byteSyms x ninth) := by
  have hbyte : writeByteEvents x true false ninth = startEvents ++ writeByteEvents x false false ninth := by
    simp [writeByteEvents]
  rw [hbyte]
  exact (shows_startEvents hsda).append (Lines.afterAll_startEvents l) (shows_writeByteEvents rfl x ninth)

/-- A byte received and answered by a NAK shows the eight bits sampled and the 1 (R174). -/
theorem shows_readByteEvents {l : Lines} (hscl : l.sclOe = true) {bs : List Bool} (hbs : bs.length = 8) :
    Shows l (readByteEvents bs false false) (byteSyms (bitsByte bs) true) := by
  have hbyte : readByteEvents bs false false = bs.flatMap readBitEvents ++ writeBitEvents true := by
    simp [readByteEvents]
  have hsclEnd := (transfersBits_flatMap transfersBits_readBitEvents bs l hscl).1
  rw [hbyte, byteSyms, byteBits_bitsByte hbs]
  exact (shows_flatMap transfersBits_readBitEvents shows_readBitEvents hscl _).append rfl
    (shows_writeBitEvents hsclEnd true)

/-- The last byte sent shows its stop condition behind its bits. -/
theorem shows_lastWriteByte (x : Byte) (ninth : Bool) :
    Shows Lines.held (writeByteEvents x false true ninth) (byteSyms x ninth ++ [.cond .stop]) := by
  rw [writeByteEvents_stop]
  exact (shows_writeByteEvents rfl x ninth).append (holdsBus_writeByteEvents rfl x ninth).held (shows_stopEvents rfl)

/-- The byte received last shows its NAK and its stop condition behind its bits. -/
theorem shows_lastReadByte {bs : List Bool} (hbs : bs.length = 8) :
    Shows Lines.held (readByteEvents bs false true) (byteSyms (bitsByte bs) true ++ [.cond .stop]) := by
  rw [readByteEvents_stop]
  exact (shows_readByteEvents rfl hbs).append (holdsBus_readByteEvents rfl bs).held (shows_stopEvents rfl)

/-! ## The round trip of a byte -/

/-- A byte is its eight bits (R58). -/
theorem byteBits_injective {x y : Byte} (h : byteBits x = byteBits y) : x = y := by
  simp only [byteBits, List.cons.injEq, and_true] at h
  obtain ⟨h7, h6, h5, h4, h3, h2, h1, h0⟩ := h
  apply BitVec.eq_of_getLsbD_eq
  intro i hi
  interval_cases i <;> assumption

/-- The value of eight bits received is `v` where they are the bits of `v` (R140). -/
theorem bitsByte_eq_iff {bs : List Bool} (hbs : bs.length = 8) (v : Byte) : bitsByte bs = v ↔ bs = byteBits v := by
  constructor
  · rintro rfl
    exact (byteBits_bitsByte hbs).symm
  · rintro rfl
    exact byteBits_injective (byteBits_bitsByte hbs)

/-- Settles O38: the wire of a byte is `shows_writeByteEvents`, and the byte read is the value of its samples. -/
theorem byteTransfersRoundTrip : Obligations.ByteTransfersRoundTrip := by
  unfold Obligations.ByteTransfersRoundTrip
  refine ⟨fun s v n hscl => ?write, fun s v a p => ?read⟩
  case write =>
    refine ⟨_, _, exec_writeByte v false false s, by rw [callWriteByte_eq], ?_⟩
    rw [callWriteByte_eq]
    exact (shows_writeByteEvents hscl v (s.nextDraw 0)).wire n
  case read =>
    refine ⟨_, exec_readByte a p s, ?_⟩
    rw [callReadByte_eq]
    exact bitsByte_eq_iff rfl v

/-! ## The wire of each command -/

theorem State.nextDraws_zero (s : State) (k : Nat) : s.nextDraws k 0 = [] := rfl

/-- What an address NAK leaves to be seen of a command that ends with a STOP (R163, R171). -/
theorem wire_nak_stop {s : State} (hsda : s.sdaOe = false) {c : Cmd} {x : Byte} (n : Nat)
    (hexec : exec c.instr s = .next
      (commandEnd s c Lines.released .idle 0x00 true 1 0x00 (writeByteEvents x true false true ++ stopEvents))) :
    ∃ t ev, exec c.instr s = .next t ∧ t.trace = s.trace ++ ([.cmd c.code] ++ ev ++ [.done (some 0x00)]) ∧
      wireFrom n s.lines none ev = [.cond .start] ++ byteSyms x true ++ [.cond .stop] ∧
      t.drawn = s.drawn + 1 ∧ t.result = 0x00 := by
  have hshow := (shows_startByte (l := s.lines) hsda x true).append (holdsBus_startByte hsda x true).held
    (shows_stopEvents rfl)
  exact ⟨_, _, hexec, rfl, hshow.wire n, rfl, rfl⟩

/-- Settles O47: after the address NAK each command ends as in `wire_nak_stop`, or without the STOP where RB_NAK_STOP = 0. -/
theorem noTransferAfterAnAddressNak : Obligations.NoTransferAfterAnAddressNak := by
  unfold Obligations.NoTransferAfterAnAddressNak
  intro s c n hbusy hquiet hc h0
  have hsda : s.sdaOe = false := sdaReleased_of_quietLines hquiet
  cases c with
  | init => exact absurd rfl hc
  | sendByte => simpa using wire_nak_stop hsda (c := .sendByte) n ((sendByteWritesOneByte s hbusy).1 h0)
  | sendByteData => simpa using wire_nak_stop hsda (c := .sendByteData) n ((sendByteDataWritesRegisterAndByte s hbusy).1 h0)
  | receiveByteData =>
    simpa using wire_nak_stop hsda (c := .receiveByteData) n ((receiveByteDataReadsAfterARepeatedStart s hbusy).1 h0)
  | receiveByte =>
    obtain ⟨hwithStop, hopen, -⟩ := receiveByteReadsOneByte s hbusy
    cases hstop : s.cfg.rbNakStop with
    | true => simpa [hstop] using wire_nak_stop hsda (c := .receiveByte) n (hwithStop h0 hstop)
    | false =>
      refine ⟨_, _, hopen h0 hstop, rfl, ?_, rfl, rfl⟩
      simpa [hstop] using (shows_startByte (l := s.lines) hsda (addrByte s.saddr true) true).wire n

/-- Settles O48: each command's events are those of its all-ACK path, byte after byte from a held bus. -/
theorem wireSequenceWhenAllAcknowledged : Obligations.WireSequenceWhenAllAcknowledged := by
  unfold Obligations.WireSequenceWhenAllAcknowledged
  intro s n hbusy hquiet
  have hsda : s.lines.sdaOe = false := sdaReleased_of_quietLines hquiet
  have hsda' : s.sdaOe = false := hsda
  have haddr (x : Byte) := shows_startByte hsda x false
  have haddrHeld (x : Byte) := (holdsBus_startByte hsda x false).held
  have hreg := shows_writeByteEvents (l := Lines.held) rfl s.regsel false
  have hregHeld := (holdsBus_writeByteEvents (l := Lines.held) rfl s.regsel false).held
  refine ⟨?init, fun hdraws => ?sendByte, fun h0 => ?receiveByte, fun hdraws => ?sendByteData, fun hdraws => ?receiveByteData⟩
  case init =>
    refine ⟨_, [.relScl, .relSda, .delay], none, exec_init_eq hbusy, by rw [procInit_eq]; simp [trace_accept, Cmd.code], ?_⟩
    simp [wireFrom, conditionOf, bitOf, Lines.after, hsda]
  case sendByte =>
    obtain ⟨h0, h1⟩ : s.nextDraw 0 = false ∧ s.nextDraw 1 = false := by simpa [State.nextDraws_succ, State.nextDraws_zero] using hdraws
    have hexec := (sendByteWritesOneByte s hbusy).2 h0
    rw [h1] at hexec
    refine ⟨_, _, _, hexec, rfl, ?_⟩
    simpa using ((haddr _).append (haddrHeld _) (shows_lastWriteByte s.wdata false)).wire n
  case receiveByte =>
    obtain ⟨-, -, hexec⟩ := receiveByteReadsOneByte s hbusy
    refine ⟨_, _, _, hexec h0, rfl, ?_⟩
    simpa [commandEnd] using ((haddr _).append (haddrHeld _) (shows_lastReadByte (bs := s.nextDraws 1 8) rfl)).wire n
  case sendByteData =>
    obtain ⟨h0, h1, h2⟩ : s.nextDraw 0 = false ∧ s.nextDraw 1 = false ∧ s.nextDraw 2 = false := by
      simpa [State.nextDraws_succ, State.nextDraws_zero] using hdraws
    obtain ⟨-, -, hexec⟩ := sendByteDataWritesRegisterAndByte s hbusy
    have hexec := hexec h0 h1
    rw [h2] at hexec
    refine ⟨_, _, _, hexec, rfl, ?_⟩
    have hshow := ((haddr (addrByte s.saddr false)).append (haddrHeld _) hreg).append
      (by rw [Lines.afterAll_append, haddrHeld, hregHeld]) (shows_lastWriteByte s.wdata false)
    simpa using hshow.wire n
  case receiveByteData =>
    obtain ⟨h0, h1, h2⟩ : s.nextDraw 0 = false ∧ s.nextDraw 1 = false ∧ s.nextDraw 2 = false := by
      simpa [State.nextDraws_succ, State.nextDraws_zero] using hdraws
    obtain ⟨-, -, -, hexec⟩ := receiveByteDataReadsAfterARepeatedStart s hbusy
    refine ⟨_, _, _, hexec h0 h1 h2, rfl, ?_⟩
    have hheld (x : Byte) := (holdsBus_startByte (l := Lines.held) rfl x false).held
    have hshow := (((haddr (addrByte s.saddr false)).append (haddrHeld _) hreg).append
      (by rw [Lines.afterAll_append, haddrHeld, hregHeld])
      (shows_startByte (l := Lines.held) rfl (addrByte s.saddr true) false)).append
      (by rw [Lines.afterAll_append, Lines.afterAll_append, haddrHeld, hregHeld, hheld])
      (shows_lastReadByte (bs := s.nextDraws 3 8) rfl)
    simpa [commandEnd] using hshow.wire n

/-! ## RECEIVE_BYTE after a NAK -/

/-- Settles O49: both ends are `commandEnd` with RESULT 0x00 and the lines released, and no offset reads ACKB. -/
theorem readFailureLooksLikeAZeroByte : Obligations.ReadFailureLooksLikeAZeroByte := by
  unfold Obligations.ReadFailureLooksLikeAZeroByte
  rintro s hbusy hstop h0 z rfl
  obtain ⟨hnak, -, -⟩ := receiveByteReadsOneByte s hbusy
  obtain ⟨-, -, hzero⟩ := receiveByteReadsOneByte { s with draws := List.replicate 9 false } hbusy
  refine ⟨_, _, hnak h0 hstop, hzero rfl, rfl, rfl, rfl, fun off => ?_⟩
  have hdraws : State.nextDraws { s with draws := List.replicate 9 false } 1 8 = List.replicate 8 false := rfl
  have hbyte : bitsByte (List.replicate 8 false) = 0x00 := by decide
  rw [hdraws, hbyte]
  rfl

/-! ## Uop counts and cycles of each path -/

/-- The cycles of uop events: one each, but DELAY_CYCLES for each DELAY (R241). -/
theorem cyclesOf_eq (d : Nat) (es : List Event) :
    cyclesOf d es = (es.length - es.countP Event.isDelay) + es.countP Event.isDelay * d := by
  induction es with
  | nil => simp [cyclesOf]
  | cons e es ih =>
    have hle := List.countP_le_length (p := Event.isDelay) (l := es)
    cases he : e.isDelay <;> simp [cyclesOf, he, ih, Nat.succ_mul] <;> omega

/-- How many events there are, and how many of them are DELAYs. -/
def uopCounts (es : List Event) : Nat × Nat := (es.length, es.countP Event.isDelay)

@[simp] theorem uopCounts_append (es fs : List Event) : uopCounts (es ++ fs) = uopCounts es + uopCounts fs := by
  simp [uopCounts]

@[simp] theorem uopCounts_stopEvents : uopCounts stopEvents = (6, 3) := rfl

@[simp] theorem uopCounts_writeByteEvents (x : Byte) (startFlag stopFlag ninth : Bool) :
    uopCounts (writeByteEvents x startFlag stopFlag ninth) =
      (54, 26) + (if startFlag then (7, 3) else 0) + (if stopFlag then (6, 3) else 0) := by
  rw [uopCounts, length_writeByteEvents, countP_isDelay_writeByteEvents]
  cases startFlag <;> cases stopFlag <;> rfl

@[simp] theorem uopCounts_readByteEvents (s : State) (k : Nat) :
    uopCounts (readByteEvents (s.nextDraws k 8) false true) = (60, 22) := by
  rw [uopCounts, length_readByteEvents rfl, countP_isDelay_readByteEvents rfl]
  rfl

/-- A path of a command is settled by its counts: its cycles follow from them. -/
theorem path_commandEnd {s : State} {c : Cmd} {l : Lines} {f : Framing} {sr : Byte} {ackb : Bool} {k : Nat} {r : Byte}
    {es : List Event} {counts : Nat × Nat} (hexec : exec c.instr s = .next (commandEnd s c l f sr ackb k r es))
    (hcounts : uopCounts es = counts) :
    ∃ t ev r, exec c.instr s = .next t ∧ t.trace = s.trace ++ ([.cmd c.code] ++ ev ++ [.done r]) ∧
      (ev.length, ev.countP Event.isDelay) = counts ∧
      ∀ d, cyclesOf d ev + 1 = ev.length - ev.countP Event.isDelay + 1 + ev.countP Event.isDelay * d :=
  ⟨_, es, some r, hexec, rfl, hcounts, fun d => by rw [cyclesOf_eq]; omega⟩

/-- Settles O50: the counts of each path are the sums of those of its bytes and of its STOP. -/
theorem everyPathHasItsUopAndDelayCounts : Obligations.EveryPathHasItsUopAndDelayCounts := by
  unfold Obligations.EveryPathHasItsUopAndDelayCounts
  intro s c hbusy
  cases c with
  | init =>
    exact ⟨_, [.relScl, .relSda, .delay], none, exec_init_eq hbusy, by rw [procInit_eq]; simp [trace_accept], rfl,
      fun d => by rw [cyclesOf_eq]; omega⟩
  | sendByte =>
    obtain ⟨hnak, hack⟩ := sendByteWritesOneByte s hbusy
    cases h0 : s.nextDraw 0
    · exact path_commandEnd (c := .sendByte) (hack h0) (by simp)
    · exact path_commandEnd (c := .sendByte) (hnak h0) (by simp)
  | receiveByte =>
    obtain ⟨hnak, hopen, hack⟩ := receiveByteReadsOneByte s hbusy
    cases h0 : s.nextDraw 0
    · exact path_commandEnd (c := .receiveByte) (hack h0) (by simp)
    · cases hrb : s.cfg.rbNakStop
      · exact path_commandEnd (c := .receiveByte) (hopen h0 hrb) (by simp)
      · exact path_commandEnd (c := .receiveByte) (hnak h0 hrb) (by simp)
  | sendByteData =>
    obtain ⟨hnak, hnakReg, hack⟩ := sendByteDataWritesRegisterAndByte s hbusy
    cases h0 : s.nextDraw 0
    · cases h1 : s.nextDraw 1
      · exact path_commandEnd (c := .sendByteData) (hack h0 h1) (by simp)
      · exact path_commandEnd (c := .sendByteData) (hnakReg h0 h1) (by simp)
    · exact path_commandEnd (c := .sendByteData) (hnak h0) (by simp)
  | receiveByteData =>
    obtain ⟨hnak, hnakReg, hnakRead, hack⟩ := receiveByteDataReadsAfterARepeatedStart s hbusy
    cases h0 : s.nextDraw 0
    · cases h1 : s.nextDraw 1
      · cases h2 : s.nextDraw 2
        · exact path_commandEnd (c := .receiveByteData) (hack h0 h1 h2) (by simp)
        · exact path_commandEnd (c := .receiveByteData) (hnakRead h0 h1 h2) (by simp)
      · exact path_commandEnd (c := .receiveByteData) (hnakReg h0 h1) (by simp)
    · exact path_commandEnd (c := .receiveByteData) (hnak h0) (by simp)

/-! ## The open transaction -/

/-- A byte sent within a transaction transfers bits only (R143). -/
theorem transfersBits_writeByteEvents (x : Byte) (ninth : Bool) : TransfersBits (writeByteEvents x false false ninth) := by
  have hbits := (transfersBits_flatMap transfersBits_writeBitEvents (byteBits x)).append (transfersBits_readBitEvents ninth)
  simpa [writeByteEvents] using hbits

/-- With SDA released before, events that begin with START make its start condition first (R121). -/
theorem conditionsFrom_startEvents_append {l : Lines} (hsda : l.sdaOe = false) (n : Nat) (es : List Event) :
    conditionsFrom n l (startEvents ++ es) =
      .start :: conditionsFrom (n + startEvents.length) { sclOe := true, sdaOe := true } es := by
  rw [conditionsFrom_append, conditionsFrom_startEvents_of_sdaReleased hsda, Lines.afterAll_startEvents]
  rfl

/-- A byte sent behind a START makes the start condition and no other (R121, R132). -/
theorem conditionsFrom_startByte {l : Lines} (hsda : l.sdaOe = false) (n : Nat) (x : Byte) (ninth : Bool) :
    conditionsFrom n l (writeByteEvents x true false ninth) = [.start] := by
  have hbyte : writeByteEvents x true false ninth = startEvents ++ writeByteEvents x false false ninth := by
    simp [writeByteEvents]
  rw [hbyte, conditionsFrom_startEvents_append hsda, (transfersBits_writeByteEvents x ninth _ rfl).2]

/-- STATUS inside a transaction with no command running: BUS_ACTIVE alone (R32). -/
theorem State.status_openBus {s : State} (hidle : s.busy = false) (hactive : s.framing = .active) : s.status = 0x02 := by
  simp [State.status, State.busActive, hidle, hactive]

/-- INIT from SDA released makes no condition and releases both lines (R164). -/
theorem exec_init_of_sdaReleased {t : State} (hidle : t.busy = false) (hsda : t.lines.sdaOe = false) (n : Nat) :
    ∃ u ev r, exec .init t = .next u ∧ u.trace = t.trace ++ ([.cmd 0x01] ++ ev ++ [.done r]) ∧
      conditionsFrom n t.lines ev = [] ∧ u.lines = Lines.released ∧ u.framing = .idle := by
  refine ⟨_, [.relScl, .relSda, .delay], none, exec_init_eq hidle, ?_, conditionsFrom_init_of_sdaReleased hsda n, ?_, ?_⟩
  · rw [procInit_eq]; simp [trace_accept, Cmd.code]
  · rw [procInit_eq]; rfl
  · rw [procInit_eq]

/-- Every command that transfers bytes makes its start condition first from SDA released (R121). -/
theorem exec_instr_of_sdaReleased {t : State} (hidle : t.busy = false) (hsda : t.lines.sdaOe = false) (n : Nat) {c : Cmd}
    (hc : c ≠ .init) :
    ∃ u ev r, exec c.instr t = .next u ∧ u.trace = t.trace ++ ([.cmd c.code] ++ ev ++ [.done r]) ∧
      (conditionsFrom n t.lines ev).head? = some .start := by
  obtain ⟨l, f, sr, ackb, k, r, es, hexec, -⟩ := exec_instr_eq_commandEnd hidle hc
  exact ⟨_, _, some r, hexec, rfl, by rw [conditionsFrom_startEvents_append hsda]; rfl⟩

/-- Settles O51: RECEIVE_BYTE ends on its open path with the bus held; INIT finds SDA released, and every other command
begins with a START. -/
theorem openTransactionAfterReceiveByteNak : Obligations.OpenTransactionAfterReceiveByteNak := by
  unfold Obligations.OpenTransactionAfterReceiveByteNak
  intro s n hbusy hstop hquiet h0
  have hsda : s.lines.sdaOe = false := sdaReleased_of_quietLines hquiet
  obtain ⟨-, hopen, -⟩ := receiveByteReadsOneByte s hbusy
  exact ⟨_, _, _, hopen h0 hstop, rfl, conditionsFrom_startByte hsda n _ _, State.status_openBus rfl rfl, rfl,
    exec_init_of_sdaReleased rfl rfl n, fun _ hc => exec_instr_of_sdaReleased rfl rfl n hc⟩

end Sys2Proof.Machine
end

section
/-! PROOFS. The two grains of the model agree (20_memory.md R65, 70_reset_and_hazards.md R241, R243; log 3): piece by piece,
the sequencer performs work in the cycles of its events and reaches the state that the call of the same procedure gives. -/

namespace Sys2Proof.Machine

open Sys2Proof

/-! ## The turns of the loops -/

/-- A turn of WRITE_BYTE's loop begins with the shift, at the first uop of its bit (R143). -/
theorem settle_sendBits_turn {s : State} (h8 : s.bitcnt ≠ 8) (ws : List Work) :
    settle (.sendBits :: ws) s =
      settle (micros (writeBitMicros s.outBit) ++ .micro .countBit :: .sendBits :: ws) s.shiftOut := by
  have hturn := settle_of_startsAtUop (ws := micros (writeBitMicros s.outBit) ++ .micro .countBit :: .sendBits :: ws)
    (by cases s.outBit <;> rfl) s.shiftOut
  rw [hturn, settle, if_neg h8, List.append_assoc]
  rfl

/-- A turn of READ_BYTE's loop begins at the first uop of its READ_BIT (R144). -/
theorem settle_recvBits_turn {s : State} (h8 : s.bitcnt ≠ 8) (ws : List Work) :
    settle (.recvBits :: ws) s = settle (readBitWork .shiftIn ++ .micro .countBit :: .recvBits :: ws) s := by
  have hturn := settle_of_startsAtUop (ws := readBitWork .shiftIn ++ .micro .countBit :: .recvBits :: ws) rfl s
  rw [hturn, settle, if_neg h8, List.append_assoc]
  rfl

/-! ## Runs in which a command stays busy -/

/-- After `n` steps the state is `t`, and before each of them a command runs. -/
def RunsBusy (n : Nat) (s t : State) : Prop :=
  runSteps n s = .next t ∧ ∀ j < n, ∃ u, runSteps j s = .next u ∧ u.busy = true

theorem runsBusy_zero (s : State) : RunsBusy 0 s s := ⟨rfl, fun _ h => absurd h (Nat.not_lt_zero _)⟩

theorem runsBusy_one {s t : State} (hbusy : s.busy = true) (h : step s = .next t) : RunsBusy 1 s t := by
  refine ⟨runSteps_succ.mpr ⟨t, h, rfl⟩, fun j hj => ⟨s, ?_, hbusy⟩⟩
  obtain rfl : j = 0 := by omega
  rfl

theorem RunsBusy.trans {m n : Nat} {s t u : State} (hm : RunsBusy m s t) (hn : RunsBusy n t u) : RunsBusy (m + n) s u := by
  refine ⟨runSteps_add hm.1 hn.1, fun j hj => ?_⟩
  obtain hlt | ⟨i, rfl⟩ := Nat.lt_or_ge j m |>.imp_right Nat.exists_eq_add_of_le
  · exact hm.2 j hlt
  · obtain ⟨v, hv, hbusy⟩ := hn.2 i (by omega)
    exact ⟨v, runSteps_add hm.1 hv, hbusy⟩

theorem cyclesOf_append (d : Nat) (es fs : List Event) : cyclesOf d (es ++ fs) = cyclesOf d es + cyclesOf d fs := by
  induction es with
  | nil => simp [cyclesOf]
  | cons e es ih => simp [cyclesOf, ih, Nat.add_assoc]

/-! ## Work performed -/

/-- A command runs alone and no DELAY is under way. -/
def State.Ready (s : State) : Prop := s.RunsAlone ∧ s.dcnt = 0

theorem ready_doMicro {s : State} (h : s.Ready) (m : Micro) : (doMicro m s).Ready := by
  obtain ⟨⟨hwf, hbusy, hin, hrst⟩, hdcnt⟩ := h
  have hside := hostSide_doMicro m s
  obtain ⟨-, -, -, hcfg, hinputs, -, hheld⟩ := State.hostSide_eq_iff.mp hside
  refine ⟨⟨by rwa [hcfg], ?_, by rwa [hinputs], by rwa [hheld]⟩, ?_⟩
  · cases m with
    | uop u => rw [doMicro, doUop_frame]; exact hbusy
    | store use b => cases use <;> exact hbusy
    | framing | load | clear | countBit => exact hbusy
  · cases m with
    | uop u =>
      obtain rfl | hu := eq_or_ne u .delay
      · rw [doMicro, doUop, State.delayUop_eq]; rfl
      · exact (dcnt_doUop hu s).trans hdcnt
    | store use b => cases use <;> exact hdcnt
    | framing | load | clear | countBit => exact hdcnt

/-- From the position at which the work `ws` begins in `s`, the sequencer reaches the one at which `vs` begins in `t`, in
exactly the cycles of the events that it adds to the trace. -/
structure Performs (ws : List Work) (s : State) (vs : List Work) (t : State) : Prop where
  ready : t.Ready
  cfg : t.cfg = s.cfg
  run : ∃ es, t.trace = s.trace ++ es ∧ RunsBusy (cyclesOf s.cfg.delayCycles es) (settle ws s) (settle vs t)

/-- What settling does takes no cycle (R140, R241). -/
theorem performs_of_settle {ws vs : List Work} {s t : State} (ht : t.Ready) (hcfg : t.cfg = s.cfg)
    (htrace : t.trace = s.trace) (h : settle ws s = settle vs t) : Performs ws s vs t :=
  ⟨ht, hcfg, [], by rw [htrace, List.append_nil], by rw [h]; exact runsBusy_zero _⟩

theorem Performs.trans {ws vs us : List Work} {s t u : State} (hst : Performs ws s vs t) (htu : Performs vs t us u) :
    Performs ws s us u := by
  obtain ⟨es, htrace, hrun⟩ := hst.run
  obtain ⟨fs, htrace', hrun'⟩ := htu.run
  rw [hst.cfg] at hrun'
  exact ⟨htu.ready, htu.cfg.trans hst.cfg, es ++ fs, by rw [htrace', htrace, List.append_assoc],
    by rw [cyclesOf_append]; exact hrun.trans hrun'⟩

theorem trace_sampleSda (s : State) : s.sampleSda.trace = s.trace ++ [.sample s.sampledBit] := by
  rw [State.sampleSda, State.emit_trace]
  split <;> rfl

/-- Every uop but a DELAY adds one event, which is no DELAY. -/
theorem trace_doUop_of_ne_delay {u : Uop} (hu : u ≠ .delay) (s : State) :
    ∃ e, (doUop u s).trace = s.trace ++ [e] ∧ e.isDelay = false := by
  cases u with
  | delay => exact absurd rfl hu
  | relScl | drvScl | relSda | drvSda => exact ⟨_, rfl, rfl⟩
  | sampleSda => exact ⟨_, trace_sampleSda s, rfl⟩

theorem State.RunsAlone.setSeq {s : State} (h : s.RunsAlone) (q : Seq) : (s.setSeq q).RunsAlone :=
  ⟨h.wf, h.busy, h.inputs, h.rst⟩

section
variable {s : State} (h : s.Ready)
include h

theorem performs_uop (u : Uop) (ws : List Work) : Performs (.micro (.uop u) :: ws) s ws (doUop u s) := by
  have hready : (doUop u s).Ready := ready_doMicro h (.uop u)
  have hcfg : (doUop u s).cfg = s.cfg := State.cfg_eq_of_hostSide_eq (hostSide_doUop u s)
  obtain ⟨halone, hdcnt⟩ := h
  have halone' := halone.setSeq (.at (.micro (.uop u) :: ws))
  obtain rfl | hu := eq_or_ne u .delay
  · obtain ⟨hcount, hend⟩ := runSteps_delay halone' rfl hdcnt
    have hdelay : doUop .delay s = s.emit .delay := by
      rw [doUop, State.delayUop_eq, State.setDcnt_eq_self hdcnt]
    have hcycles : cyclesOf s.cfg.delayCycles [.delay] = s.cfg.delayCycles := by simp [cyclesOf, Event.isDelay]
    refine ⟨hready, hcfg, [.delay], by rw [hdelay]; rfl, ?_⟩
    rw [hcycles, hdelay, ← settle_setSeq ws (.at (.micro (.uop .delay) :: ws))]
    refine ⟨hend, fun j hj => ?_⟩
    obtain rfl | hpos := Nat.eq_zero_or_pos j
    · exact ⟨_, rfl, halone'.busy⟩
    · exact ⟨_, hcount j hpos hj, halone'.busy⟩
  · obtain ⟨e, htrace, he⟩ := trace_doUop_of_ne_delay hu s
    have hcycles : cyclesOf s.cfg.delayCycles [e] = 1 := by simp [cyclesOf, he]
    have hcycle : sequencerCycle (s.setSeq (.at (.micro (.uop u) :: ws))) = settle ws (doUop u s) := by
      have hcommutes := doMicro_setSeq (.at (.micro (.uop u) :: ws)) (.uop u) s
      rw [doMicro, doMicro] at hcommutes
      rw [sequencerCycle_uop hu rfl, hcommutes, settle_setSeq]
    exact ⟨hready, hcfg, [e], htrace, by
      rw [hcycles]; exact runsBusy_one halone'.busy (halone'.step.trans (congrArg Host.Outcome.next hcycle))⟩

/-- A uop takes its cycles, and a register transfer none. -/
theorem performs_micro (m : Micro) (ws : List Work) : Performs (.micro m :: ws) s ws (doMicro m s) := by
  have hready := ready_doMicro h m
  cases m with
  | uop u => exact performs_uop h u ws
  | store use b => cases use <;> exact performs_of_settle hready rfl rfl rfl
  | framing | load | clear | countBit => exact performs_of_settle hready rfl rfl rfl

theorem performs_micros (ms : List Micro) (ws : List Work) : Performs (micros ms ++ ws) s ws (runMicros ms s) := by
  induction ms generalizing s with
  | nil => exact performs_of_settle h rfl rfl rfl
  | cons m ms ih =>
    have hfirst := performs_micro h m (micros ms ++ ws)
    exact hfirst.trans (ih hfirst.ready)

/-- The sample takes its cycle and puts the bit in the work that stores it (R105; log 7). -/
theorem performs_sampleEnd (use : BitUse) (ws : List Work) :
    Performs (.sampleEnd use :: ws) s (.micro (.uop .drvScl) :: .micro (.store use s.sampledBit) :: ws) s.sampleSda := by
  have hready : s.sampleSda.Ready := ready_doMicro h (.uop .sampleSda)
  have hcfg : s.sampleSda.cfg = s.cfg := State.cfg_eq_of_hostSide_eq (State.hostSide_sampleSda s)
  have halone := h.1.setSeq (.at (.sampleEnd use :: ws))
  have hcommutes : (s.setSeq (.at (.sampleEnd use :: ws))).sampleSda =
      s.sampleSda.setSeq (.at (.sampleEnd use :: ws)) :=
    doMicro_setSeq _ (.uop .sampleSda) s
  have hcycle : sequencerCycle (s.setSeq (.at (.sampleEnd use :: ws))) =
      settle (.micro (.uop .drvScl) :: .micro (.store use s.sampledBit) :: ws) s.sampleSda := by
    simp only [sequencerCycle, State.setSeq_seq, hcommutes]
    rfl
  refine ⟨hready, hcfg, [.sample s.sampledBit], trace_sampleSda s, ?_⟩
  exact runsBusy_one halone.busy (by rw [← hcycle]; exact halone.step)

/-- READ_BIT, with the store of its bit (R131, R142, R144). -/
theorem performs_readBit (use : BitUse) (ws : List Work) :
    Performs (readBitWork use ++ ws) s ws ((callReadBit s).2.storeBit use (callReadBit s).1) := by
  have hclock := performs_micros h readBitMicros (.sampleEnd use :: ws)
  have hsample := performs_sampleEnd hclock.ready use ws
  have hdrive := performs_micro hsample.ready (.uop .drvScl) (.micro (.store use (runMicros readBitMicros s).sampledBit) :: ws)
  have hstore := performs_micro hdrive.ready (.store use (runMicros readBitMicros s).sampledBit) ws
  rw [readBitWork, List.append_assoc]
  exact ((hclock.trans hsample).trans hdrive).trans hstore

/-- The loop of WRITE_BYTE with `n` turns to go (R143). -/
theorem performs_sendBits (n : Nat) (ws : List Work) (hn : s.bitcnt.toNat + n = 8) :
    Performs (.sendBits :: ws) s ws (sendBits n s) := by
  induction n generalizing s with
  | zero =>
    have h8 : s.bitcnt = 8 := by bv_omega
    exact performs_of_settle h rfl rfl (if_pos h8)
  | succ n ih =>
    obtain ⟨hne, hnext⟩ := bitcnt_of_turns_left hn
    have hturn : Performs (.sendBits :: ws) s (micros (writeBitMicros s.outBit) ++ .micro .countBit :: .sendBits :: ws)
        s.shiftOut :=
      performs_of_settle ⟨⟨h.1.wf, h.1.busy, h.1.inputs, h.1.rst⟩, h.2⟩ rfl rfl (settle_sendBits_turn hne ws)
    have hbit := performs_micros hturn.ready (writeBitMicros s.outBit) (.micro .countBit :: .sendBits :: ws)
    have hcount := performs_micro hbit.ready .countBit (.sendBits :: ws)
    have hrest := ih (s := sendBit s) hcount.ready (by rw [sendBit_eq]; exact hnext)
    rw [sendBits_of_turns_left hn]
    exact ((hturn.trans hbit).trans hcount).trans hrest

/-- The loop of READ_BYTE with `n` turns to go (R144). -/
theorem performs_recvBits (n : Nat) (ws : List Work) (hn : s.bitcnt.toNat + n = 8) :
    Performs (.recvBits :: ws) s ws (recvBits n s) := by
  induction n generalizing s with
  | zero =>
    have h8 : s.bitcnt = 8 := by bv_omega
    exact performs_of_settle h rfl rfl (if_pos h8)
  | succ n ih =>
    obtain ⟨hne, hnext⟩ := bitcnt_of_turns_left hn
    have hturn : Performs (.recvBits :: ws) s (readBitWork .shiftIn ++ .micro .countBit :: .recvBits :: ws) s :=
      performs_of_settle h rfl rfl (settle_recvBits_turn hne ws)
    have hbit := performs_readBit hturn.ready .shiftIn (.micro .countBit :: .recvBits :: ws)
    have hcount := performs_micro hbit.ready .countBit (.recvBits :: ws)
    have hrest := ih (s := recvBit s) hcount.ready (by rw [recvBit_eq]; exact hnext)
    rw [recvBits_of_turns_left hn]
    exact ((hturn.trans hbit).trans hcount).trans hrest

/-- A flag performs a START or a STOP, or nothing. -/
theorem performs_flag (flag : Bool) (ms : List Micro) (ws : List Work) :
    Performs ((if flag then micros ms else []) ++ ws) s ws (if flag then runMicros ms s else s) := by
  cases flag
  · exact performs_of_settle h rfl rfl rfl
  · exact performs_micros h ms ws

/-- WRITE_BYTE (R143). -/
theorem performs_writeByte (src : ByteSrc) (startFlag stopFlag : Bool) (ws : List Work) :
    Performs (writeByteWork src startFlag stopFlag ++ ws) s ws (callWriteByte (srcByte src s) startFlag stopFlag s) := by
  have hsrc : srcByte src (if startFlag then callStart s else s) = srcByte src s := by
    cases startFlag
    · rfl
    · rw [if_pos rfl, callStart_eq]; cases src <;> rfl
  have hwork : writeByteWork src startFlag stopFlag ++ ws =
      (if startFlag then micros startMicros else []) ++ .micro (.load src) :: .sendBits ::
        (readBitWork .ackb ++ ((if stopFlag then micros stopMicros else []) ++ ws)) := by
    simp [writeByteWork]
  rw [hwork]
  have hstop {t : State} (ht : t.Ready) := performs_flag ht stopFlag stopMicros ws
  generalize (if stopFlag then micros stopMicros else []) ++ ws = vs at hstop ⊢
  have hstart := performs_flag h startFlag startMicros (.micro (.load src) :: .sendBits :: (readBitWork .ackb ++ vs))
  have hload := performs_micro hstart.ready (.load src) (.sendBits :: (readBitWork .ackb ++ vs))
  have hbits := performs_sendBits hload.ready 8 (readBitWork .ackb ++ vs) rfl
  have hninth := performs_readBit hbits.ready .ackb vs
  have hall := (((hstart.trans hload).trans hbits).trans hninth).trans (hstop hninth.ready)
  have hload' : doMicro (.load src) (if startFlag then callStart s else s) =
      (if startFlag then callStart s else s).loadByte (srcByte src s) := by rw [doMicro, hsrc]
  rw [callWriteByte, ← hload']
  exact hall

/-- READ_BYTE (R144). -/
theorem performs_readByte (sendAckFlag stopFlag : Bool) (ws : List Work) :
    Performs (readByteWork sendAckFlag stopFlag ++ ws) s ws (callReadByte sendAckFlag stopFlag s) := by
  have hwork : readByteWork sendAckFlag stopFlag ++ ws = .micro .clear :: .recvBits ::
      (micros (writeBitMicros (!sendAckFlag)) ++ ((if stopFlag then micros stopMicros else []) ++ ws)) := by
    simp [readByteWork]
  rw [hwork]
  have hstop {t : State} (ht : t.Ready) := performs_flag ht stopFlag stopMicros ws
  generalize (if stopFlag then micros stopMicros else []) ++ ws = vs at hstop ⊢
  have hclear := performs_micro h .clear (.recvBits :: (micros (writeBitMicros (!sendAckFlag)) ++ vs))
  have hbits := performs_recvBits hclear.ready 8 (micros (writeBitMicros (!sendAckFlag)) ++ vs) rfl
  have hninth := performs_micros hbits.ready (writeBitMicros (!sendAckFlag)) vs
  exact ((hclear.trans hbits).trans hninth).trans (hstop hninth.ready)

end

/-! ## Commands -/

theorem srcByte_addrWrite (s : State) : srcByte .addrWrite s = addrByte s.saddrL false := rfl
theorem srcByte_addrRead (s : State) : srcByte .addrRead s = addrByte s.saddrL true := rfl
theorem srcByte_reg (s : State) : srcByte .reg s = s.regL := rfl
theorem srcByte_data (s : State) : srcByte .data s = s.dataL := rfl

/-- The work `ws` runs from `s` to its completion, which leaves `u`. -/
def RunsTo (ws : List Work) (s u : State) : Prop :=
  ∃ k t, Performs ws s [.finish k] t ∧ u = t.finish (finishValue k t)

theorem Performs.runsTo {ws vs : List Work} {s t u : State} (h : Performs ws s vs t) (hu : RunsTo vs t u) :
    RunsTo ws s u := by
  obtain ⟨k, v, hperforms, rfl⟩ := hu
  exact ⟨k, v, h.trans hperforms, rfl⟩

section
variable {s : State} (h : s.Ready)
include h

theorem runsTo_finish (k : FinishKind) : RunsTo [.finish k] s (s.finish (finishValue k s)) :=
  ⟨k, s, performs_of_settle h rfl rfl rfl, rfl⟩

/-- After a NAK the abort runs to its end (R163). -/
theorem runsTo_nakAbort (hnak : s.acked = false) (stop : Bool) (ws : List Work) :
    RunsTo (.nakExit stop :: ws) s (nakAbort stop s) := by
  have hexit : Performs (.nakExit stop :: ws) s ((if stop then micros stopMicros else []) ++ [.finish .failure]) s := by
    have habort := settle_of_startsAtUop (ws := (if stop then micros stopMicros else []) ++ [.finish .failure])
      (by cases stop <;> rfl) s
    refine performs_of_settle h rfl rfl ?_
    rw [habort]
    exact if_pos (by simp [hnak])
  have hstop := performs_flag hexit.ready stop stopMicros [.finish .failure]
  exact (hexit.trans hstop).runsTo (runsTo_finish hstop.ready .failure)

/-- After an acknowledge the command goes on (R163). -/
theorem performs_ack (hack : s.acked = true) (stop : Bool) (ws : List Work) :
    Performs (.nakExit stop :: ws) s ws s :=
  performs_of_settle h rfl rfl (if_neg (by simp [hack]))

/-- The end of an acknowledge test: the abort, or what runs behind it. -/
theorem runsTo_nakExit {stop : Bool} {ws : List Work} {u : State} (hu : s.acked = true → RunsTo ws s u) :
    RunsTo (.nakExit stop :: ws) s (if !s.acked then nakAbort stop s else u) := by
  cases hack : s.acked
  · exact runsTo_nakAbort h hack stop ws
  · exact (performs_ack h hack stop ws).runsTo (hu hack)

theorem runsTo_lastWriteByte {src : ByteSrc} {x : Byte} (hx : srcByte src s = x) :
    RunsTo (writeByteWork src false true ++ [.finish .ack]) s
      ((callWriteByte x false true s).finish (some (boolResult (callWriteByte x false true s).acked))) := by
  have hbyte := performs_writeByte h src false true [.finish .ack]
  rw [hx] at hbyte
  exact hbyte.runsTo (runsTo_finish hbyte.ready .ack)

theorem runsTo_lastReadByte :
    RunsTo (readByteWork false true ++ [.finish .byte]) s
      ((callReadByte false true s).finish (some (callReadByte false true s).sr)) := by
  have hbyte := performs_readByte h false true [.finish .byte]
  exact hbyte.runsTo (runsTo_finish hbyte.ready .byte)

/-- A byte sent, then the acknowledge test, then what runs behind it. -/
theorem runsTo_writeByte {src : ByteSrc} {x : Byte} (hx : srcByte src s = x) {startFlag stop : Bool} {ws : List Work}
    {u : State} (hu : (callWriteByte x startFlag false s).Ready → RunsTo ws (callWriteByte x startFlag false s) u) :
    RunsTo (writeByteWork src startFlag false ++ .nakExit stop :: ws) s
      (if !(callWriteByte x startFlag false s).acked then nakAbort stop (callWriteByte x startFlag false s) else u) := by
  have hbyte := performs_writeByte h src startFlag false (.nakExit stop :: ws)
  rw [hx] at hbyte
  exact hbyte.runsTo (runsTo_nakExit hbyte.ready fun _ => hu hbyte.ready)

/-- The work of each command runs to the end of its procedure (R164 to R169). -/
theorem runsTo_procedureOf (c : Cmd) : RunsTo (procedureOf s.cfg c) s (Cmd.procedure c s) := by
  cases c with
  | init =>
    have hbody := performs_micros h initMicros [.finish .absent]
    have hend : Cmd.procedure .init s = (runMicros initMicros s).finish none := rfl
    have hdone : RunsTo [.finish .absent] (runMicros initMicros s) ((runMicros initMicros s).finish none) :=
      runsTo_finish hbody.ready .absent
    rw [hend]
    exact hbody.runsTo hdone
  | sendByte =>
    have hwork : procedureOf s.cfg .sendByte =
        writeByteWork .addrWrite true false ++ .nakExit true :: (writeByteWork .data false true ++ [.finish .ack]) := by
      simp [procedureOf]
    rw [hwork, Cmd.procedure, procSendByte]
    dsimp only
    exact runsTo_writeByte h (srcByte_addrWrite s) fun haddr => runsTo_lastWriteByte haddr (srcByte_data _)
  | receiveByte =>
    have hwork : procedureOf s.cfg .receiveByte =
        writeByteWork .addrRead true false ++ .nakExit s.cfg.rbNakStop :: (readByteWork false true ++ [.finish .byte]) := by
      simp [procedureOf]
    have hcfg : (callWriteByte (addrByte s.saddrL true) true false s).cfg = s.cfg :=
      State.cfg_eq_of_hostSide_eq (hostSide_callWriteByte ..)
    rw [hwork, Cmd.procedure, procReceiveByte]
    dsimp only
    rw [hcfg]
    exact runsTo_writeByte h (srcByte_addrRead s) fun haddr => runsTo_lastReadByte haddr
  | sendByteData =>
    have hwork : procedureOf s.cfg .sendByteData =
        writeByteWork .addrWrite true false ++ .nakExit true :: (writeByteWork .reg false false ++ .nakExit true ::
          (writeByteWork .data false true ++ [.finish .ack])) := by
      simp [procedureOf]
    rw [hwork, Cmd.procedure, procSendByteData]
    dsimp only
    exact runsTo_writeByte h (srcByte_addrWrite s) fun haddr =>
      runsTo_writeByte haddr (srcByte_reg _) fun hreg => runsTo_lastWriteByte hreg (srcByte_data _)
  | receiveByteData =>
    have hwork : procedureOf s.cfg .receiveByteData =
        writeByteWork .addrWrite true false ++ .nakExit true :: (writeByteWork .reg false false ++ .nakExit true ::
          (writeByteWork .addrRead true false ++ .nakExit true :: (readByteWork false true ++ [.finish .byte]))) := by
      simp [procedureOf]
    rw [hwork, Cmd.procedure, procReceiveByteData]
    dsimp only
    exact runsTo_writeByte h (srcByte_addrWrite s) fun haddr =>
      runsTo_writeByte haddr (srcByte_reg _) fun hreg =>
        runsTo_writeByte hreg (srcByte_addrRead _) fun hread => runsTo_lastReadByte hread

end

/-- Settles O55: acceptance puts the sequencer at the command's work, which runs to the end of its procedure in the cycles
of its events, and one more cycle completes it. -/
theorem sequencerRunsEachCommandToItsMeaning : Obligations.SequencerRunsEachCommandToItsMeaning := by
  unfold Obligations.SequencerRunsEachCommandToItsMeaning
  intro s c hwf hidle hdcnt hin hrst
  have hready : (accept c s).Ready := ⟨⟨hwf, rfl, hin, hrst⟩, hdcnt⟩
  have hstart : settle (procedureOf s.cfg c) (accept c s) = accept c s :=
    settle_of_startsAtUop (by cases c <;> rfl) _
  obtain ⟨k, t, hperforms, hend⟩ := runsTo_procedureOf hready c
  obtain ⟨es, htrace, hrun⟩ := hperforms.run
  have hcfg : (accept c s).cfg = s.cfg := rfl
  rw [hcfg, hstart] at hrun
  have halone := hperforms.ready.1.setSeq (.at [.finish k])
  have hfinish : step (settle [.finish k] t) = .next (Cmd.procedure c (accept c s)) := by
    rw [hend]; exact halone.step
  obtain ⟨hruns, hbusy⟩ := hrun
  refine ⟨_, es, finishValue k t, exec_instr_of_idle hidle c, ?_, runSteps_add hruns (runSteps_succ.mpr ⟨_, hfinish, rfl⟩), ?_⟩
  · rw [hend, State.finish_trace, htrace, trace_accept]
    simp
  · intro j hj
    obtain hlt | rfl := Nat.lt_or_eq_of_le hj
    · exact hbusy j hlt
    · exact ⟨_, hruns, halone.busy⟩

end Sys2Proof.Machine
end
